-- ==== Sys2Proof/Word.lean ====
section
/-! DEFINITION. The word types of the controller and its wire (00_scope.md R9, R10; 10_state.md R22 to R25). -/

namespace Sys2Proof

/-- `DATA_W` = 8: one wire exchange moves one byte each way (R9). -/
abbrev Byte := BitVec 8

/-- `ADDR_W` = 16: an address is a 16-bit unsigned offset (R9). -/
abbrev Addr := BitVec 16

/-- `LEN_W` = 16: a range length is 0 to 65535 (R10). -/
abbrev Len := BitVec 16

/-- `OP_W` = 4: the host op code field (R10). -/
abbrev OpCode := BitVec 4

/-- The frame position `r.k`, 17 bits (R25). -/
abbrev Pos := BitVec 17

/-- The 64-bit host command word of 30_encoding.md R90. -/
abbrev CmdWord := BitVec 64

end Sys2Proof
end

