-- ==== Sys2Proof/Syntax.lean ====
section
/-! DEFINITION. The host commands (30_encoding.md R90 to R95): one constructor per row of spec/opcode_table.json.
Every command latches all four command ports (10_state.md R32, 30_encoding.md R93), so every constructor carries
the address, the length and the data byte that were presented with its op code; a field that the command does not
read is carried and ignored (log 23). -/

namespace Sys2Proof

/-- A host command: its op code (by name) and the three fields presented with it. -/
inductive Instr where
  | enableWrite (addr : Addr) (len : Len) (data : Byte)
  | disableWrite (addr : Addr) (len : Len) (data : Byte)
  | readStatus (addr : Addr) (len : Len) (data : Byte)
  | writeStatus (addr : Addr) (len : Len) (data : Byte)
  | readByte (addr : Addr) (len : Len) (data : Byte)
  | writeByte (addr : Addr) (len : Len) (data : Byte)
  | readRange (addr : Addr) (len : Len) (data : Byte)
  | writeRange (addr : Addr) (len : Len) (data : Byte)
  | waitWriteComplete (addr : Addr) (len : Len) (data : Byte)
  | illegal0 (addr : Addr) (len : Len) (data : Byte)
  | illegalA (addr : Addr) (len : Len) (data : Byte)
  | illegalB (addr : Addr) (len : Len) (data : Byte)
  | illegalC (addr : Addr) (len : Len) (data : Byte)
  | illegalD (addr : Addr) (len : Len) (data : Byte)
  | illegalE (addr : Addr) (len : Len) (data : Byte)
  | illegalF (addr : Addr) (len : Len) (data : Byte)
deriving DecidableEq, Repr

/-- The nine legal commands by name, without their fields: what the formatter of 30_encoding.md R104 to R107
distinguishes. -/
inductive Command where
  | enableWrite | disableWrite | readStatus | writeStatus | readByte | writeByte | readRange | writeRange
  | waitWriteComplete
deriving DecidableEq, Repr

/-- A line of the assembler syntax of 30_encoding.md R110: only the operands the command takes, and after
WRITE_RANGE the write-data stream; `word` is the raw word of 95_test_vectors.md, Program 4. -/
inductive AsmLine where
  | enableWrite
  | disableWrite
  | readStatus
  | writeStatus (data : Byte)
  | readByte (addr : Addr)
  | writeByte (addr : Addr) (data : Byte)
  | readRange (addr : Addr) (len : Len)
  | writeRange (addr : Addr) (len : Len) (bytes : List Byte)
  | waitWriteComplete
  | word (w : CmdWord)
deriving DecidableEq, Repr

end Sys2Proof
end

