-- ==== Sys2Proof/WellFormed.lean ====
section
/-! DEFINITION. What makes a command word, an assembler line and a program well formed. The fields of `Instr` have
the widths of the ports, so every `Instr` can be presented and none is ill formed (30_encoding.md R96); what the
spec does ask of what a host writes is here. -/

namespace Sys2Proof

/-- The reserved bits 7:4 and 63:48 of a command word are written 0 (30_encoding.md R90). The controller ignores
them, so this is a check on what a host writes, never on what it accepts. -/
def CmdWord.reservedZero (w : CmdWord) : Bool :=
  w.extractLsb' 4 4 == 0#4 && w.extractLsb' 48 16 == 0#16

/-- A line of R110: the list after WRITE_RANGE has exactly `len` entries, and a raw word has its reserved
bits clear. -/
def AsmLine.wf : AsmLine → Bool
  | .enableWrite => true
  | .disableWrite => true
  | .readStatus => true
  | .writeStatus _ => true
  | .readByte _ => true
  | .writeByte _ _ => true
  | .readRange _ _ => true
  | .writeRange _ len bytes => bytes.length == len.toNat
  | .waitWriteComplete => true
  | .word w => CmdWord.reservedZero w

/-- A program is a list of well-formed lines (R110: one command per line). -/
def AsmLine.programWf (p : List AsmLine) : Bool := p.all AsmLine.wf

end Sys2Proof
end

