-- ==== Sys2Proof/Decode.lean ====
section
/-! DEFINITION. Decoding of the host command (30_encoding.md R90, R92, R95, R96) and its encoder. Decoding is total:
every 4-bit op code selects exactly one row of R92, so nothing is rejected here; an illegal op code decodes to the
constructor of its own row and is answered with ILLEGAL_OP by the machine (R95). -/

namespace Sys2Proof

/-- The command presented on the four command ports (R92, R35). Op code 0x0 has its own line; the last line cannot
be reached, since a 4-bit value is at most 15. -/
def decodePorts (op : OpCode) (addr : Addr) (len : Len) (data : Byte) : Instr :=
  match op.toNat with
  | 0 => .illegal0 addr len data
  | 1 => .enableWrite addr len data
  | 2 => .disableWrite addr len data
  | 3 => .readStatus addr len data
  | 4 => .writeStatus addr len data
  | 5 => .readByte addr len data
  | 6 => .writeByte addr len data
  | 7 => .readRange addr len data
  | 8 => .writeRange addr len data
  | 9 => .waitWriteComplete addr len data
  | 10 => .illegalA addr len data
  | 11 => .illegalB addr len data
  | 12 => .illegalC addr len data
  | 13 => .illegalD addr len data
  | 14 => .illegalE addr len data
  | 15 => .illegalF addr len data
  | _ + 16 => .illegal0 addr len data

/-- Bits 3:0 of a command word (R90). -/
def wordOp (w : CmdWord) : OpCode := w.extractLsb' 0 4

/-- Bits 15:8 of a command word (R90). -/
def wordData (w : CmdWord) : Byte := w.extractLsb' 8 8

/-- Bits 31:16 of a command word (R90). -/
def wordAddr (w : CmdWord) : Addr := w.extractLsb' 16 16

/-- Bits 47:32 of a command word (R90). -/
def wordLen (w : CmdWord) : Len := w.extractLsb' 32 16

/-- The command a 64-bit command word stands for; bits 7:4 and 63:48 reach no port and are ignored (R90, R95). -/
def decodeWord (w : CmdWord) : Instr :=
  decodePorts (wordOp w) (wordAddr w) (wordLen w) (wordData w)

/-- The host op code of a command (R92). -/
def Instr.op : Instr → OpCode
  | .illegal0 _ _ _ => 0x0#4
  | .enableWrite _ _ _ => 0x1#4
  | .disableWrite _ _ _ => 0x2#4
  | .readStatus _ _ _ => 0x3#4
  | .writeStatus _ _ _ => 0x4#4
  | .readByte _ _ _ => 0x5#4
  | .writeByte _ _ _ => 0x6#4
  | .readRange _ _ _ => 0x7#4
  | .writeRange _ _ _ => 0x8#4
  | .waitWriteComplete _ _ _ => 0x9#4
  | .illegalA _ _ _ => 0xA#4
  | .illegalB _ _ _ => 0xB#4
  | .illegalC _ _ _ => 0xC#4
  | .illegalD _ _ _ => 0xD#4
  | .illegalE _ _ _ => 0xE#4
  | .illegalF _ _ _ => 0xF#4

/-- The address presented with a command. -/
def Instr.addr : Instr → Addr
  | .illegal0 a _ _ | .enableWrite a _ _ | .disableWrite a _ _ | .readStatus a _ _ | .writeStatus a _ _
  | .readByte a _ _ | .writeByte a _ _ | .readRange a _ _ | .writeRange a _ _ | .waitWriteComplete a _ _
  | .illegalA a _ _ | .illegalB a _ _ | .illegalC a _ _ | .illegalD a _ _ | .illegalE a _ _ | .illegalF a _ _ => a

/-- The length presented with a command. -/
def Instr.len : Instr → Len
  | .illegal0 _ n _ | .enableWrite _ n _ | .disableWrite _ n _ | .readStatus _ n _ | .writeStatus _ n _
  | .readByte _ n _ | .writeByte _ n _ | .readRange _ n _ | .writeRange _ n _ | .waitWriteComplete _ n _
  | .illegalA _ n _ | .illegalB _ n _ | .illegalC _ n _ | .illegalD _ n _ | .illegalE _ n _ | .illegalF _ n _ => n

/-- The data byte presented with a command. -/
def Instr.data : Instr → Byte
  | .illegal0 _ _ d | .enableWrite _ _ d | .disableWrite _ _ d | .readStatus _ _ d | .writeStatus _ _ d
  | .readByte _ _ d | .writeByte _ _ d | .readRange _ _ d | .writeRange _ _ d | .waitWriteComplete _ _ d
  | .illegalA _ _ d | .illegalB _ _ d | .illegalC _ _ d | .illegalD _ _ d | .illegalE _ _ d | .illegalF _ _ d => d

/-- The name of a command's row in spec/opcode_table.json. -/
def Instr.mnemonic : Instr → String
  | .illegal0 _ _ _ => "ILLEGAL_0x0"
  | .enableWrite _ _ _ => "ENABLE_WRITE"
  | .disableWrite _ _ _ => "DISABLE_WRITE"
  | .readStatus _ _ _ => "READ_STATUS"
  | .writeStatus _ _ _ => "WRITE_STATUS"
  | .readByte _ _ _ => "READ_BYTE"
  | .writeByte _ _ _ => "WRITE_BYTE"
  | .readRange _ _ _ => "READ_RANGE"
  | .writeRange _ _ _ => "WRITE_RANGE"
  | .waitWriteComplete _ _ _ => "WAIT_WRITE_COMPLETE"
  | .illegalA _ _ _ => "ILLEGAL_0xa"
  | .illegalB _ _ _ => "ILLEGAL_0xb"
  | .illegalC _ _ _ => "ILLEGAL_0xc"
  | .illegalD _ _ _ => "ILLEGAL_0xd"
  | .illegalE _ _ _ => "ILLEGAL_0xe"
  | .illegalF _ _ _ => "ILLEGAL_0xf"

/-- The command word of a command: `zext_64(len ++ addr ++ data ++ 0b0000 ++ op)` (R90). -/
def encode (i : Instr) : CmdWord :=
  (0#16 ++ i.len ++ i.addr ++ i.data ++ 0#4 ++ i.op : BitVec 64)

/-- The legal command an op code names, none for 0x0 and 0xA to 0xF (R92, R95). -/
def Command.ofOp (op : OpCode) : Option Command :=
  match op.toNat with
  | 1 => some .enableWrite
  | 2 => some .disableWrite
  | 3 => some .readStatus
  | 4 => some .writeStatus
  | 5 => some .readByte
  | 6 => some .writeByte
  | 7 => some .readRange
  | 8 => some .writeRange
  | 9 => some .waitWriteComplete
  | _ => none

/-- The op code of a legal command (R92). -/
def Command.op : Command → OpCode
  | .enableWrite => 0x1#4
  | .disableWrite => 0x2#4
  | .readStatus => 0x3#4
  | .writeStatus => 0x4#4
  | .readByte => 0x5#4
  | .writeByte => 0x6#4
  | .readRange => 0x7#4
  | .writeRange => 0x8#4
  | .waitWriteComplete => 0x9#4

/-- What the decoder reads from a word numbered as spec/opcode_table.json numbers it: `nbits` bits are given, the
bits above them are 0. None where more bits are given than a command word has. -/
def decodeTableWord (nbits w : Nat) : Option Instr :=
  if nbits ≤ 64 then some (decodeWord (BitVec.ofNat 64 (w % 2 ^ nbits))) else none

end Sys2Proof
end

