-- ==== Sys2Proof/Machine/Flags.lean ====
section
/-! DEFINITION. The status byte (10_state.md R36 to R41) and its decoding (42_status.md R152 to R157). The controller
has no condition flags of its own (R43). -/

namespace Sys2Proof.Machine

/-- `RDY(s) = s[0]` (R152): true means busy. -/
def statusRdy (s : Byte) : Bool := s.getLsbD 0

/-- `WEN(s) = s[1]` (R153). -/
def statusWen (s : Byte) : Bool := s.getLsbD 1

/-- `BP(s) = s[3:2]` (R154). -/
def statusBp (s : Byte) : BitVec 2 := s.extractLsb' 2 2

/-- `s[6:4]`, the reserved bits (R41): no decode function reads them. -/
def statusRes (s : Byte) : BitVec 3 := s.extractLsb' 4 3

/-- `WPEN(s) = s[7]` (R155). -/
def statusWpen (s : Byte) : Bool := s.getLsbD 7

/-- The names of the block-protection levels (R39, R154). -/
inductive BpLevel where
  | none | quarter | half | wholeMemory
deriving DecidableEq, Repr

/-- `BPName` (R154): every 2-bit value has a name. -/
def bpName (bp : BitVec 2) : BpLevel :=
  match bp.toNat with
  | 0 => .none
  | 1 => .quarter
  | 2 => .half
  | _ => .wholeMemory

/-- The record `Decode(s)` of R156. -/
structure StatusFields where
  rdy : Bool
  wen : Bool
  bp : BitVec 2
  wpen : Bool
deriving DecidableEq, Repr

/-- The full decode of a status byte (R156). -/
def statusDecode (s : Byte) : StatusFields :=
  { rdy := statusRdy s, wen := statusWen s, bp := statusBp s, wpen := statusWpen s }

/-- `StatusValue(bp, wpen) = (wpen << 7) | (bp << 2)` (R157). -/
def statusValue (bp : BitVec 2) (wpen : Bool) : Byte :=
  ((BitVec.ofBool wpen).setWidth 8 <<< 7) ||| (bp.setWidth 8 <<< 2)

/-- `wpen ++ res ++ bp ++ wel ++ busy`, bit 7 down to bit 0 (20_memory.md R65). -/
def statusByte (wpen : Bool) (res : BitVec 3) (bp : BitVec 2) (wel busy : Bool) : Byte :=
  BitVec.ofBool wpen ++ res ++ bp ++ BitVec.ofBool wel ++ BitVec.ofBool busy

end Sys2Proof.Machine
end

