-- ==== Sys2Proof/Config.lean ====
section
/-! DEFINITION. What an implementation or a device fixes (00_scope.md R10, R11), and the free values: every
value the spec calls "any value", "device-defined" or "no value" after which the machine goes on. None of the
opaque constants below has a body, so no proof can learn a value of one. -/

namespace Sys2Proof

/-- `DUMMY_BYTE` (R10, D10): OPEN in the spec. DESIGN CHOICE, safe: an opaque constant (log 9). -/
opaque Config.dummyByte : Byte

/-- How far `POLL_DELAY_US` lies above its least value 1 (R10, D13). DESIGN CHOICE, safe: opaque (log 9). -/
opaque Config.pollDelayExtra : Nat

/-- The open device parameters of R11, as raw data. The laws the spec puts on them (a power of two, a page size
dividing the memory size, `PROT` monotone, its levels a quarter and a half of the array) hold by the way Machine/Device.lean reads them (log 10). -/
structure DevParams where
  /-- `MEM_SIZE` is 2 to this power, at most 65536 (R11, R75). -/
  memLog : Fin 17
  /-- `PAGE_SIZE` is 2 to this power, cut at `MEM_SIZE` (R11, R74). -/
  pageLog : Fin 17
  /-- Where the half of the array that protection level 2 protects begins, cut so that it fits in the array (R72). -/
  halfStart : Nat
  /-- How far into that half the quarter that level 1 protects begins, cut so that it fits in the half (R72). -/
  quarterStart : Nat
  /-- `REQUIRES_WEL` (R11): whether a write frame needs the write-enable latch. -/
  requiresWel : Bool
  /-- `SR_WRITABLE_MASK` (R71): the status bits a write-status frame changes. -/
  srMask : Byte
  /-- What a byte of the array holds that no write of this run has reached (R79: the array is non-volatile and
  its contents are the device's). DESIGN CHOICE, safe: open per address (log 13). -/
  blank : Nat → Byte
deriving Inhabited

/-- The device on the link. Opaque: R11 says its parameters are OPEN (log 10). -/
opaque Config.device : DevParams

/-- The places at which a free value is taken, one name each, so that two free values of one step never
share a source (log 8). -/
inductive FreeSlot where
  /-- controller registers after a reset step (R240, R44, U27; log 7) -/
  | regOp | regAddr | regLen | regCdata | regK | regWbuf | regRbuf | regSr | regFault | regCode
  /-- a received byte that the device contract leaves as any value (R65, R66, R70, U20; log 8) -/
  | rx
  /-- a device variable of R60 that the contract leaves as any value (R68, R70, R79, R212, R241; log 15 to 18) -/
  | wel | busy | bp | wpen | res
  /-- byte `a` of the array where the contract leaves it as any value (R70, R212, R241; log 15; log 17) -/
  | array (a : Nat)
  /-- an input port in a step that no script names: an agent outside the machine sets it (R35; log 1) -/
  | portRst | portCmdValid | portCmdOp | portCmdAddr | portCmdLen | portCmdData | portWdValid | portWdData
  | portRdReady | portRspReady | portXAck | portXRxDevice | portXRx | portXErr | portDDone
  /-- what the device does on its own in such a step (log 1, 12) -/
  | devDone | devReset
deriving DecidableEq, Repr

/-- The free values: at draw number `n` and slot `q`, some value of width `w`. Nothing constrains it (log 8). -/
opaque Config.free (q : FreeSlot) (n : Nat) (w : Nat) : BitVec w

/-- The free values the device powers up with (R79; log 18): the draw before any step. -/
opaque Config.powerUp (q : FreeSlot) (w : Nat) : BitVec w

end Sys2Proof
end

