-- ==== Sys2Proof/Machine/State.lean ====
section
/-! DEFINITION. The state of the machine as plain data: the controller's registers (10_state.md R20 to R31), the
values of its input ports (R35), the EEPROM device of the contract (20_memory.md R60) on the other end of the link,
and the events emitted so far (R34). -/

namespace Sys2Proof.Machine

/-- `r.st`, the controller state (R20). -/
inductive St where
  /-- no transaction owns the link -/
  | idle
  /-- a frame is about to start -/
  | assert
  /-- inside a frame, waiting for the next write-data byte -/
  | fetch
  /-- inside a frame, about to exchange byte `r.k` -/
  | xchg
  /-- inside a frame, a received data byte waits for the host -/
  | deliver
  /-- the frame's last exchange is done, or a fault ended it -/
  | deassert
  /-- between two polling frames -/
  | pause
  /-- the response waits for the host -/
  | resp
deriving DecidableEq, Repr

/-- The response codes of 60_exceptions.md R211, 2 bits on `rsp_code`. -/
abbrev Code := BitVec 2

/-- An event of 10_state.md R34. -/
inductive Event where
  /-- `Cmd(op, addr, len, data)`: a command was accepted -/
  | cmd (op : OpCode) (addr : Addr) (len : Len) (data : Byte)
  /-- `Wd(b)`: the host handed over write-data byte `b` -/
  | wd (b : Byte)
  /-- `Rd(b)`: the host took read-data byte `b` -/
  | rd (b : Byte)
  /-- `Rsp(code)`: the host took the response -/
  | rsp (code : Code)
  /-- `CsOn`: chip-select driven active -/
  | csOn
  /-- `CsOff`: chip-select driven inactive -/
  | csOff
  /-- `Xc(tx, rx)`: one byte exchange completed -/
  | xc (tx rx : Byte)
  /-- `XcFault(tx)`: the exchange of `tx` failed in the transport -/
  | xcFault (tx : Byte)
  /-- `Dly(n)`: the delay primitive ran for at least `n` microseconds -/
  | dly (n : Nat)
  /-- `Rst`: reset was applied -/
  | rst
deriving DecidableEq, Repr

/-- Where the byte on `x_rx` comes from (R34, R35; log 11). -/
inductive RxSource where
  /-- the transport reports this byte, under no law: the controller model of R34 -/
  | line (b : Byte)
  /-- the byte the contract's device answers (20_memory.md R65, R66; a free value where it leaves any value) -/
  | device
deriving DecidableEq, Repr

/-- The input ports of R35 during one step, and the two things the device does on its own (log 1, 12). -/
structure Inputs where
  rst : Bool
  cmdValid : Bool
  cmdOp : OpCode
  cmdAddr : Addr
  cmdLen : Len
  cmdData : Byte
  wdValid : Bool
  wdData : Byte
  rdReady : Bool
  rspReady : Bool
  xAck : Bool
  xRx : RxSource
  xErr : Bool
  dDone : Bool
  /-- the device completes its pending internal write before this step's event (R67, R69, R76) -/
  devDone : Bool
  /-- the device is reset before this step's event (R63, R79) -/
  devReset : Bool
deriving DecidableEq, Repr

/-- No agent outside the controller does anything (log 1). -/
def Inputs.quiet : Inputs :=
  { rst := false, cmdValid := false, cmdOp := 0, cmdAddr := 0, cmdLen := 0, cmdData := 0, wdValid := false,
    wdData := 0, rdReady := false, rspReady := false, xAck := false, xRx := .line 0, xErr := false, dDone := false,
    devDone := false, devReset := false }

/-- What the input ports do once a script of their values has ended, for ever (log 1). -/
inductive Later where
  /-- these values, over and over: the runs that never end, such as the endless wait of 44_poll_fsm.md R194, are runs
  of a state; the empty list is a quiet environment -/
  | repeats (xs : List Inputs)
  /-- any values, fresh in every step: every infinite sequence of port values is one of these -/
  | free
deriving DecidableEq, Repr

/-- The data array: (address, byte) pairs, addresses strictly rising, no entry equal to what an unlisted address
reads as (Machine/Memory.lean holds the form and every operation). -/
abbrev Memory := List Host.Cell

/-- An internal write in progress in the device (20_memory.md R67 to R70). The device is busy exactly while there is
one (log 14). -/
inductive Pending where
  /-- a write-data frame's page buffer: the page base and the (offset, byte) pairs written to it (R67) -/
  | data (page : Nat) (buf : List Host.Cell)
  /-- a write-status frame's value (R69) -/
  | status (v : Byte)
  /-- a write of which the contract says nothing: on completion the array and the status fields hold any value
  (R70, R212, R241; log 14) -/
  | unknown
deriving DecidableEq, Repr

/-- What the device holds inside a frame (R60, R61, 10_state.md R47). -/
structure DevFrame where
  /-- the device was busy when chip-select went active (R70; log 20) -/
  late : Bool
  /-- a transport fault or a device reset cut the frame short (60_exceptions.md R212; log 15, 17) -/
  cut : Bool
  /-- the frame's wire opcode, once received -/
  opcode : Option Byte
  /-- how many operand bytes followed it -/
  count : Nat
  /-- the last operand byte -/
  last : Byte
  /-- the internal address pointer -/
  ptr : Nat
  /-- the page write buffer: (offset in the page, byte), offsets strictly rising -/
  buf : List Host.Cell
deriving DecidableEq, Repr

/-- The EEPROM device of the contract (R60). -/
structure Device where
  mem : Memory
  wel : Bool
  pending : Option Pending
  bp : BitVec 2
  wpen : Bool
  res : BitVec 3
  frame : Option DevFrame
deriving DecidableEq, Repr

/-- The ways a step can stop the machine. The controller has no trap (60_exceptions.md R210): its errors are
response codes, which are next states. -/
inductive Fault where
  /-- Raised by the meaning of an illegal op code (Machine/Illegal.lean) in the states XCHG and DELIVER: the spec
  runs no frame for an illegal op and defines no byte and no length for one (30_encoding.md R95, R104), so it gives
  these states no step. No run from reset reaches them. Safe (log 19). -/
  | illegalOpInFrame
deriving DecidableEq, Repr

/-- Refusals. -/
inductive Refusal where
  /-- An instruction without a meaning, by its mnemonic. Raised by no arm of exec: every instruction has its
  meaning. Safe. -/
  | notModelled (mnemonic : String)
deriving DecidableEq, Repr

/-- The machine's state. -/
structure State where
  /-- `r.st`, the controller state (R20) -/
  st : St
  /-- `r.op`, the host op code of the command being executed (R21) -/
  op : OpCode
  /-- `r.addr`, its start address (R22) -/
  addr : Addr
  /-- `r.len`, its range length (R23) -/
  len : Len
  /-- `r.cdata`, its data byte (R24) -/
  cdata : Byte
  /-- `r.k`, the frame position of the next byte to exchange (R25) -/
  k : Pos
  /-- `r.wbuf`, the write-data byte for the next exchange (R26) -/
  wbuf : Byte
  /-- `r.rbuf`, the received byte waiting for the host (R27) -/
  rbuf : Byte
  /-- `r.sr`, the status byte of the current polling frame (R28) -/
  sr : Byte
  /-- `r.fault`, a transport fault ended the current frame (R29) -/
  fault : Bool
  /-- `r.code`, the response code (R30) -/
  code : Code
  /-- `r.cs`, chip-select is driven active (R31) -/
  cs : Bool
  /-- the EEPROM device on the link (20_memory.md R60) -/
  dev : Device
  /-- the input ports in the coming step (R35; log 1) -/
  inp : Inputs
  /-- the input ports in the steps after it (log 1) -/
  script : List Inputs
  /-- the input ports when that list has ended (log 1) -/
  later : Later
  /-- the events emitted so far, oldest first: the observation of a run (R34; log 3) -/
  trace : List Event
  /-- the model's own counter that picks fresh free values (log 8) -/
  draws : Nat
deriving DecidableEq, Repr

/-- The device when the controller comes out of reset: the controller's reset does not reset it (70_reset R242) and
its variables hold any value (R79), so each is a free value (log 18). No frame is open, since chip-select is
inactive. The array lists nothing (log 13). DESIGN CHOICE, safe: the spec does not say which write stands behind a
device that is busy here, so nothing is known of it and its completion leaves the array and the status fields any value
(log 14). DESIGN CHOICE, unsafe: the device is past its power-up time and answers from the first step on (log 35). -/
def Device.powerUp : Device :=
  { mem := []
    wel := Config.powerUp .wel 1 == 1#1
    pending := if Config.powerUp .busy 1 == 1#1 then some .unknown else none
    bp := Config.powerUp .bp 2
    wpen := Config.powerUp .wpen 1 == 1#1
    res := Config.powerUp .res 3
    frame := none }

/-- The machine right after reset (R44): IDLE, chip-select inactive. The spec gives the other registers no value;
DESIGN CHOICE, unsafe: each holds 0 (log 6). No port is driven in the first step, any agent may drive any port after
it, and nothing has been observed (log 1, 3). -/
def State.reset : State :=
  { st := .idle, op := 0, addr := 0, len := 0, cdata := 0, k := 0, wbuf := 0, rbuf := 0, sr := 0, fault := false,
    code := 0, cs := false, dev := Device.powerUp, inp := Inputs.quiet, script := [], later := .free,
    trace := [], draws := 0 }

end Sys2Proof.Machine
end

