-- ==== Sys2Proof/Machine/Memory.lean ====
section
/-! DEFINITION. The device's data array (20_memory.md R50, R60) and the page buffer, as sorted lists of (key, byte)
pairs. Every operation on the array is here. -/

namespace Sys2Proof.Machine

/-- The byte listed at `a`, if one is. -/
def cellsGet : List Host.Cell → Nat → Option Byte
  | [], _ => none
  | (x, v) :: t, a => if x = a then some v else cellsGet t a

/-- Put `b` at `a`: a later byte at the same key replaces an earlier one. -/
def cellsPut : List Host.Cell → Nat → Byte → List Host.Cell
  | [], a, b => [(a, b)]
  | (x, v) :: t, a, b =>
    if a < x then (a, b) :: (x, v) :: t else if a = x then (a, b) :: t else (x, v) :: cellsPut t a b

/-- Drop the entry at `a`, if there is one. -/
def cellsDrop : List Host.Cell → Nat → List Host.Cell
  | [], _ => []
  | (x, v) :: t, a => if a < x then (x, v) :: t else if a = x then t else (x, v) :: cellsDrop t a

/-- Keys strictly rising: the canonical order of the array and of the page buffer. -/
abbrev cellsRising (m : List Host.Cell) : Prop := m.Pairwise (fun x y => x.1 < y.1)

/-- What an unlisted address reads as: the array's contents before the run wrote it, which the device fixes
(R79; log 13). -/
def Memory.unlisted (P : DevParams) (a : Nat) : Byte := P.blank a

/-- `MemRead(a, 1)` (R13). -/
def Memory.read (P : DevParams) (m : Memory) (a : Nat) : Byte := (cellsGet m a).getD (Memory.unlisted P a)

/-- `MemWrite(a, 1, b)` (R13): writing what an unlisted address reads as removes the entry. -/
def Memory.write (P : DevParams) (m : Memory) (a : Nat) (b : Byte) : Memory :=
  if b = Memory.unlisted P a then cellsDrop m a else cellsPut m a b

/-- The canonical form: addresses strictly rising, and no entry equal to what an unlisted address reads as. -/
abbrev Memory.wf (P : DevParams) (m : Memory) : Prop :=
  cellsRising m ∧ ∀ c ∈ m, c.2 ≠ Memory.unlisted P c.1

/-- The array whose byte at each address below `n` is `f` of it. -/
def Memory.ofFn (P : DevParams) (n : Nat) (f : Nat → Byte) : Memory :=
  (List.range n).filterMap (fun a => if f a = Memory.unlisted P a then none else some (a, f a))

end Sys2Proof.Machine
end

