-- ==== Sys2Proof/Machine/Operands.lean ====
section
/-! DEFINITION. The command formatter: the wire opcodes (30_encoding.md R101) and the four functions of a latched
command that say which bytes a frame has and what happens to each (R104 to R107). -/

namespace Sys2Proof.Machine

/-- Enable Write (R101). -/
def wireEnableWrite : Byte := 0x06#8
/-- Disable Write (R101). -/
def wireDisableWrite : Byte := 0x04#8
/-- Read Status (R101). -/
def wireReadStatus : Byte := 0x05#8
/-- Write Status (R101). -/
def wireWriteStatus : Byte := 0x01#8
/-- Read Data (R101). -/
def wireReadData : Byte := 0x03#8
/-- Write Data (R101). -/
def wireWriteData : Byte := 0x02#8

/-- `a[15:8]`, the address byte sent first (20_memory.md R52). -/
def addrHi (a : Addr) : Byte := a.extractLsb' 8 8

/-- `a[7:0]`, the address byte sent second (20_memory.md R52). -/
def addrLo (a : Addr) : Byte := a.extractLsb' 0 8

/-- `POLL_DELAY_US`, a natural number, at least 1 (00_scope.md R10). -/
def pollDelayUs : Nat := Config.pollDelayExtra + 1

/-- `FrameLen(op, len)` (R104). Not defined for an illegal op, hence a function of a legal command. -/
def frameLen (c : Command) (len : Len) : Pos :=
  match c with
  | .enableWrite | .disableWrite => 1
  | .readStatus | .writeStatus | .waitWriteComplete => 2
  | .readByte | .writeByte => 4
  | .readRange | .writeRange => 3 + len.setWidth 17

/-- `TxByte(op, k)` (R105), with the registers it reads as arguments: `r.addr`, `r.cdata`, `r.wbuf`. -/
def txByte (c : Command) (k : Pos) (addr : Addr) (cdata wbuf : Byte) : Byte :=
  match c with
  | .enableWrite => wireEnableWrite
  | .disableWrite => wireDisableWrite
  | .readStatus => if k = 0 then wireReadStatus else Config.dummyByte
  | .waitWriteComplete => if k = 0 then wireReadStatus else Config.dummyByte
  | .writeStatus => if k = 0 then wireWriteStatus else cdata
  | .readByte | .readRange =>
    if k = 0 then wireReadData else if k = 1 then addrHi addr else if k = 2 then addrLo addr else Config.dummyByte
  | .writeByte =>
    if k = 0 then wireWriteData else if k = 1 then addrHi addr else if k = 2 then addrLo addr else cdata
  | .writeRange =>
    if k = 0 then wireWriteData else if k = 1 then addrHi addr else if k = 2 then addrLo addr else wbuf

/-- What happens to a received byte (R106). -/
inductive RxUse where
  | discard | deliver | poll
deriving DecidableEq, Repr

/-- `RxUse(op, k)` (R106). -/
def rxUse (c : Command) (k : Pos) : RxUse :=
  match c with
  | .readStatus => if k = 1 then .deliver else .discard
  | .readByte => if k = 3 then .deliver else .discard
  | .readRange => if 3 ≤ k then .deliver else .discard
  | .waitWriteComplete => if k = 1 then .poll else .discard
  | .enableWrite | .disableWrite | .writeStatus | .writeByte | .writeRange => .discard

/-- `NeedsFetch(op, k)` (R107). -/
def needsFetch (c : Command) (k : Pos) : Bool := c == .writeRange && decide (3 ≤ k)

end Sys2Proof.Machine
end

