-- ==== Sys2Proof/Machine/Device.lean ====
section
/-! DEFINITION. The device contract (20_memory.md R60 to R79): what the EEPROM on the link does with the bytes of a
frame, at the end of a frame, when an internal write completes and when it is reset. The parameters of R11 are the
argument `P`; the machine takes them from Config. `n` picks the free values (log 8). -/

namespace Sys2Proof.Machine

/-- `MEM_SIZE`, a power of two, at most 65536 (R11, R75). -/
def memSize (P : DevParams) : Nat := 2 ^ P.memLog.val

/-- `PAGE_SIZE`, a power of two dividing `MEM_SIZE` (R11, R74). -/
def pageSize (P : DevParams) : Nat := 2 ^ min P.pageLog.val P.memLog.val

/-- The first address of the half of the array that level 2 protects (R72). -/
def halfBase (P : DevParams) : Nat := min P.halfStart (memSize P - memSize P / 2)

/-- The first address of the quarter of the array that level 1 protects: it lies in the half of level 2 (R72). -/
def quarterBase (P : DevParams) : Nat := halfBase P + min P.quarterStart (memSize P / 2 - memSize P / 4)

/-- `PROT(bp, a)` (R72): nothing at level 0, a quarter of the array at level 1, a half that holds it at level 2,
everything at level 3. DESIGN CHOICE: each is one range of addresses (log 10). -/
def prot (P : DevParams) (bp : BitVec 2) (a : Nat) : Bool :=
  match bp.toNat with
  | 0 => false
  | 1 => decide (quarterBase P ≤ a ∧ a < quarterBase P + memSize P / 4)
  | 2 => decide (halfBase P ≤ a ∧ a < halfBase P + memSize P / 2)
  | _ => true

/-- A free bit. -/
def freeBit (q : FreeSlot) (n : Nat) : Bool := Config.free q n 1 == 1#1

/-- `busy`, status bit 0: an internal write is in progress (R37, R60; log 14). -/
def deviceBusy (d : Device) : Bool := d.pending.isSome

/-- The status register as a read-status frame returns it (R65). -/
def deviceStatus (d : Device) : Byte := statusByte d.wpen d.res d.bp d.wel (deviceBusy d)

/-- An array of which nothing is known. -/
def freeArray (P : DevParams) (n : Nat) : Memory :=
  Memory.ofFn P (memSize P) (fun a => Config.free (.array a) n 8)

/-- Every device variable of R60 takes any value, and no frame is open (R70, R212, R241; log 15). -/
def deviceHavoc (P : DevParams) (n : Nat) : Device :=
  { mem := freeArray P n
    wel := freeBit .wel n
    pending := if freeBit .busy n then some .unknown else none
    bp := Config.free .bp n 2
    wpen := freeBit .wpen n
    res := Config.free .res n 3
    frame := none }

/-- A write frame takes effect: the latch is set, or the device does not require it (R67 to R69). -/
def deviceWriteEnabled (P : DevParams) (d : Device) : Bool := d.wel || !P.requiresWel

/-- Chip-select goes active: a frame begins (R61). -/
def deviceCsOn (d : Device) : Device :=
  { d with frame := some { late := deviceBusy d, cut := false, opcode := none, count := 0, last := 0, ptr := 0,
                           buf := [] } }

/-- The internal address pointer after an operand byte of a data frame: the high byte, then the low byte with the
reduction modulo `MEM_SIZE` (R66, R67, R75), then one step per data byte, inside the page for a write (R67). -/
def nextPtr (P : DevParams) (opcode : Byte) (count ptr : Nat) (tx : Byte) : Nat :=
  if count = 0 then tx.toNat * 256
  else if count = 1 then (ptr + tx.toNat) % memSize P
  else if opcode = wireWriteData then (ptr - ptr % pageSize P) + (ptr + 1) % pageSize P
  else ptr + 1

/-- The frame after it took the byte `tx`: the first byte is the wire opcode, the others its operands (R61); a data
byte of a write-data frame goes to the page buffer at the pointer's offset, a later one at the same offset replacing
an earlier one (R67). -/
def frameTake (P : DevParams) (f : DevFrame) (tx : Byte) : DevFrame :=
  match f.opcode with
  | none => { f with opcode := some tx }
  | some op =>
    { f with
      count := f.count + 1
      last := tx
      ptr := nextPtr P op f.count f.ptr tx
      buf := if op = wireWriteData ∧ 2 ≤ f.count then cellsPut f.buf (f.ptr % pageSize P) tx else f.buf }

/-- The device takes the byte `tx`. -/
def deviceTake (P : DevParams) (d : Device) (tx : Byte) : Device :=
  { d with frame := d.frame.map (fun f => frameTake P f tx) }

/-- The byte the device sends during the exchange of the next byte: the status register in a read-status frame,
also while busy (R65); the byte at the pointer in a read-data frame sent while not busy, below `MEM_SIZE` (R66);
any value otherwise (R65 to R67, R70). DESIGN CHOICE, safe: what a device answers in the rest of a frame that its
own reset cut is not in the spec, and is any value too, whether or not the reset left it busy (log 17). -/
def deviceAnswer (P : DevParams) (n : Nat) (d : Device) : Byte :=
  match d.frame with
  | none => Config.free .rx n 8
  | some f =>
    if f.cut then Config.free .rx n 8
    else if f.opcode = some wireReadStatus ∧ f.count = 0 then deviceStatus d
    else if f.opcode = some wireReadData ∧ f.late = false ∧ 2 ≤ f.count ∧ f.ptr < memSize P then
      Memory.read P d.mem f.ptr
    else Config.free .rx n 8

/-- A transport fault cuts the open frame short (60_exceptions.md R212). -/
def deviceCut (d : Device) : Device :=
  { d with frame := d.frame.map (fun f => { f with cut := true }) }

/-- The effect of a complete frame on a device whose frame is closed again, by the frame's opcode and operand count.
A frame of any other shape is none of the contract's, and leaves any value (log 15). DESIGN CHOICE: R62 and R64 name no
moment of the frame at which the latch changes, and the model takes its end (log 34). -/
def frameEffect (P : DevParams) (n : Nat) (f : DevFrame) (d : Device) : Device :=
  if f.opcode = some wireEnableWrite ∧ f.count = 0 then { d with wel := true }                     -- R62
  else if f.opcode = some wireDisableWrite ∧ f.count = 0 then { d with wel := false }              -- R64
  else if f.opcode = some wireWriteStatus ∧ f.count = 1 then                                       -- R69
    if deviceWriteEnabled P d then { d with pending := some (.status f.last) } else d
  else if f.opcode = some wireReadData ∧ 2 ≤ f.count then d                                        -- R57, R66
  else if f.opcode = some wireWriteData ∧ f.count = 2 then                                         -- R68
    { d with wel := freeBit .wel n, pending := if freeBit .busy n then some (.data 0 []) else none }
  else if f.opcode = some wireWriteData ∧ 3 ≤ f.count then                                         -- R67, R68
    if deviceWriteEnabled P d then { d with pending := some (.data (f.ptr - f.ptr % pageSize P) f.buf) } else d
  else deviceHavoc P n

/-- Chip-select goes inactive: the frame ends. A read-status frame changes nothing, also while busy (R57, R65). A cut
frame, and any other frame sent while busy, leaves every device variable any value (R70, R212). -/
def deviceCsOff (P : DevParams) (n : Nat) (d : Device) : Device :=
  match d.frame with
  | none => d
  | some f =>
    if f.cut then deviceHavoc P n
    else if f.opcode = some wireReadStatus ∧ f.count = 1 then { d with frame := none }
    else if f.late then deviceHavoc P n
    else frameEffect P n f { d with frame := none }

/-- One byte of an internal write lands in the array unless its address is protected (R67, R72). -/
def landByte (P : DevParams) (bp : BitVec 2) (page : Nat) (m : Memory) (c : Host.Cell) : Memory :=
  if prot P bp (page + c.1) then m else Memory.write P m (page + c.1) c.2

/-- The status bits after a write-status value `v` met the old status byte under `SR_WRITABLE_MASK` (R69, R71). -/
def mergeStatus (P : DevParams) (old v : Byte) : Byte := (old &&& ~~~P.srMask) ||| (v &&& P.srMask)

/-- The pending internal write completes: its bytes or its status bits take effect, then `busy` and `wel` are
cleared (R63, R67, R69). Nothing happens where no write is pending. -/
def deviceComplete (P : DevParams) (n : Nat) (d : Device) : Device :=
  match d.pending with
  | none => d
  | some (.data page buf) =>
    { d with mem := buf.foldl (landByte P d.bp page) d.mem, pending := none, wel := false }
  | some (.status v) =>
    let s := mergeStatus P (deviceStatus d) v
    { d with bp := statusBp s, wpen := statusWpen s, res := statusRes s, pending := none, wel := false }
  | some .unknown =>
    { d with mem := freeArray P n, bp := Config.free .bp n 2, wpen := freeBit .wpen n, res := Config.free .res n 3,
             pending := none, wel := false }

/-- The array after a device reset: it survives (R79). DESIGN CHOICE: the bytes that a data write in progress was
about to write hold any value, and so does the array where nothing is known of the write (log 17). -/
def resetArray (P : DevParams) (n : Nat) (d : Device) : Memory :=
  match d.pending with
  | none => d.mem
  | some (.data page buf) =>
    buf.foldl (fun m c => landByte P d.bp page m (c.1, Config.free (.array (page + c.1)) n 8)) d.mem
  | some (.status _) => d.mem
  | some .unknown => freeArray P n

/-- The device is reset (R63, R79): the latch clears, the array survives, and the other variables hold any value. An
open frame is cut short (log 17); the write behind a device that is busy after it is one of no bytes (log 14). -/
def deviceReset (P : DevParams) (n : Nat) (d : Device) : Device :=
  { mem := resetArray P n d
    wel := false
    pending := if freeBit .busy n then some (.data 0 []) else none
    bp := Config.free .bp n 2
    wpen := freeBit .wpen n
    res := Config.free .res n 3
    frame := d.frame.map (fun f => { f with cut := true }) }

end Sys2Proof.Machine
end

