-- ==== Sys2Proof/Machine/Ops.lean ====
section
/-! DEFINITION. The steps of the controller (40_transaction.md R120 to R129, 44_poll_fsm.md R192 and R193, 70_reset
R240), each once, shared by every command. A step whose handshake partner is absent changes nothing (00_scope.md R14;
log 2). -/

namespace Sys2Proof.Machine

/-- Response code OK (60_exceptions.md R211). -/
def codeOk : Code := 0
/-- Response code TRANSPORT_FAULT (R211). -/
def codeTransportFault : Code := 1
/-- Response code ILLEGAL_OP (R211). -/
def codeIllegalOp : Code := 2

/-- The step emits the event `e` (10_state.md R34). -/
def State.emit (e : Event) (s : State) : State := { s with trace := s.trace ++ [e] }

/-- The latching part of command acceptance (R121): the four fields, `r.k <- 0`, `r.fault <- 0`. -/
def State.latch (op : OpCode) (addr : Addr) (len : Len) (data : Byte) (s : State) : State :=
  { s with op := op, addr := addr, len := len, cdata := data, k := 0, fault := false }

/-- IdleStep for a legal op (R121). -/
def acceptLegal (op : OpCode) (addr : Addr) (len : Len) (data : Byte) (s : State) : State :=
  { (s.latch op addr len data).emit (.cmd op addr len data) with st := .assert }

/-- IdleStep for an illegal op (R121, R213): the error path of the one cause decided at acceptance. The command is
answered with ILLEGAL_OP and touches nothing else. -/
def acceptIllegal (op : OpCode) (addr : Addr) (len : Len) (data : Byte) (s : State) : State :=
  { (s.latch op addr len data).emit (.cmd op addr len data) with code := codeIllegalOp, st := .resp }

/-- AssertStep (R122). Never holds. -/
def assertStep (s : State) : State :=
  { s.emit .csOn with cs := true, st := .xchg, dev := deviceCsOn s.dev }

/-- FetchStep (R124). Holds until `wd_valid`. -/
def fetchStep (s : State) : State :=
  if s.inp.wdValid then { s.emit (.wd s.inp.wdData) with wbuf := s.inp.wdData, st := .xchg } else s

/-- Advance (R125). -/
def advance (c : Command) (s : State) : State :=
  { s with
    k := s.k + 1
    st := if s.k + 1 = frameLen c s.len then .deassert else if needsFetch c (s.k + 1) then .fetch else .xchg }

/-- `TxByte(r.op, r.k)` on the registers of a state (30_encoding.md R105). -/
def State.tx (c : Command) (s : State) : Byte := txByte c s.k s.addr s.cdata s.wbuf

/-- The byte received by an exchange (R34; log 11). -/
def State.rx (s : State) : Byte :=
  match s.inp.xRx with
  | .line b => b
  | .device => deviceAnswer Config.device s.draws s.dev

/-- The transport completed the exchange (R123): one `Xc` event, and the device has taken the byte. -/
def exchanged (c : Command) (s : State) : State :=
  { s.emit (.xc (s.tx c) s.rx) with dev := deviceTake Config.device s.dev (s.tx c) }

/-- The transport fault (R127, 60_exceptions.md R212): the controller's error path for a failed exchange. The frame
stops here and is deasserted next. -/
def transportFault (c : Command) (s : State) : State :=
  { s.emit (.xcFault (s.tx c)) with fault := true, st := .deassert, dev := deviceCut s.dev }

/-- XchgStep (R123, R127). Holds until `x_ack`. -/
def xchgStep (c : Command) (s : State) : State :=
  if s.inp.xAck then
    if s.inp.xErr then transportFault c s
    else
      match rxUse c s.k with
      | .deliver => { exchanged c s with rbuf := s.rx, st := .deliver }
      | .poll => advance c { exchanged c s with sr := s.rx }
      | .discard => advance c (exchanged c s)
  else s

/-- DeliverStep (R126). Holds until `rd_ready`. -/
def deliverStep (c : Command) (s : State) : State :=
  if s.inp.rdReady then advance c (s.emit (.rd s.rbuf)) else s

/-- PollDecision (44_poll_fsm.md R192): only bit 0 of this frame's status byte is tested. -/
def pollDecision (s : State) : State :=
  if statusRdy s.sr then { s with st := .pause } else { s with code := codeOk, st := .resp }

/-- DeassertStep (R128). Never holds. `wait` says that the command is WAIT_WRITE_COMPLETE. -/
def deassertStep (wait : Bool) (s : State) : State :=
  let t := { s.emit .csOff with cs := false, dev := deviceCsOff Config.device s.draws s.dev }
  if s.fault then { t with code := codeTransportFault, st := .resp }
  else if wait then pollDecision t
  else { t with code := codeOk, st := .resp }

/-- PauseStep (44_poll_fsm.md R193). Holds until `d_done`. -/
def pauseStep (s : State) : State :=
  if s.inp.dDone then { s.emit (.dly pollDelayUs) with k := 0, st := .assert } else s

/-- RespStep (R129). Holds until `rsp_ready`: the return from a command, with or without an error (R218). -/
def respStep (s : State) : State :=
  if s.inp.rspReady then { s.emit (.rsp s.code) with st := .idle } else s

/-- The step of a legal command that `r.st` selects (R120). -/
def commandStep (c : Command) (addr : Addr) (len : Len) (data : Byte) (s : State) : Host.Outcome State Fault Refusal :=
  match s.st with
  | .idle => .next (acceptLegal c.op addr len data s)
  | .assert => .next (assertStep s)
  | .fetch => .next (fetchStep s)
  | .xchg => .next (xchgStep c s)
  | .deliver => .next (deliverStep c s)
  | .deassert => .next (deassertStep (c == .waitWriteComplete) s)
  | .pause => .next (pauseStep s)
  | .resp => .next (respStep s)

/-- The step of an illegal op code that `r.st` selects (R120, R95). The spec defines no byte and no frame length for
one, so the two states that need them are a fault; no run reaches a frame state with an illegal op (log 19). -/
def illegalStep (op : OpCode) (addr : Addr) (len : Len) (data : Byte) (s : State) : Host.Outcome State Fault Refusal :=
  match s.st with
  | .idle => .next (acceptIllegal op addr len data s)
  | .assert => .next (assertStep s)
  | .fetch => .next (fetchStep s)
  | .xchg => .fault .illegalOpInFrame
  | .deliver => .fault .illegalOpInFrame
  | .deassert => .next (deassertStep false s)
  | .pause => .next (pauseStep s)
  | .resp => .next (respStep s)

/-- ResetStep (70_reset R240, R241): `Rst`, the select line inactive, IDLE; the other registers hold no value, so
each is a free value (log 7). A device with an open frame has seen it cut short (R241); otherwise the device is not
touched (R242). -/
def resetStep (s : State) : State :=
  { s.emit .rst with
    cs := false
    st := .idle
    op := Config.free .regOp s.draws 4
    addr := Config.free .regAddr s.draws 16
    len := Config.free .regLen s.draws 16
    cdata := Config.free .regCdata s.draws 8
    k := Config.free .regK s.draws 17
    wbuf := Config.free .regWbuf s.draws 8
    rbuf := Config.free .regRbuf s.draws 8
    sr := Config.free .regSr s.draws 8
    fault := freeBit .regFault s.draws
    code := Config.free .regCode s.draws 2
    dev := if s.cs then deviceHavoc Config.device s.draws else s.dev }

/-- What the device does on its own before the controller's event: it is reset, or its internal write completes
(R67, R69, R76, R79; log 12). -/
def deviceStep (s : State) : State :=
  { s with
    dev := if s.inp.devReset then deviceReset Config.device s.draws s.dev
           else if s.inp.devDone then deviceComplete Config.device s.draws s.dev
           else s.dev
    draws := s.draws + 1 }

/-- The input ports where no script names them: any values (log 1). -/
def Inputs.free (n : Nat) : Inputs :=
  { rst := freeBit .portRst n
    cmdValid := freeBit .portCmdValid n
    cmdOp := Config.free .portCmdOp n 4
    cmdAddr := Config.free .portCmdAddr n 16
    cmdLen := Config.free .portCmdLen n 16
    cmdData := Config.free .portCmdData n 8
    wdValid := freeBit .portWdValid n
    wdData := Config.free .portWdData n 8
    rdReady := freeBit .portRdReady n
    rspReady := freeBit .portRspReady n
    xAck := freeBit .portXAck n
    xRx := if freeBit .portXRxDevice n then .device else .line (Config.free .portXRx n 8)
    xErr := freeBit .portXErr n
    dDone := freeBit .portDDone n
    devDone := freeBit .devDone n
    devReset := freeBit .devReset n }

/-- The script that follows one that has ended; `n` picks the free values. -/
def Later.refill (l : Later) (n : Nat) : List Inputs :=
  match l with
  | .repeats xs => xs
  | .free => [Inputs.free n]

/-- The port values of the steps to come: the script, and where it has ended what follows it (log 1). -/
def State.upcoming (s : State) : List Inputs :=
  match s.script with
  | [] => s.later.refill s.draws
  | x :: xs => x :: xs

/-- The step is over: the input ports take their next values (log 1). -/
def nextInputs (s : State) : State :=
  { s with inp := s.upcoming.headD Inputs.quiet, script := s.upcoming.tail, draws := s.draws + 1 }

/-- The command whose step is due: in IDLE the one on the command ports, if `cmd_valid`; otherwise the latched one
(R33, R121; log 4). -/
def fetchInstr (s : State) : Option Instr :=
  match s.st with
  | .idle => if s.inp.cmdValid then some (decodePorts s.inp.cmdOp s.inp.cmdAddr s.inp.cmdLen s.inp.cmdData) else none
  | _ => some (decodePorts s.op s.addr s.len s.cdata)

/-- After a meaning answered a next state, the step is over; a stop stays a stop. -/
def thenNextInputs : Host.Outcome State Fault Refusal → Host.Outcome State Fault Refusal
  | .next s => .next (nextInputs s)
  | .fault r => .fault r
  | .refused r => .refused r

/-- The ports of a state with a command word on them and `rst` inactive (R90). -/
def presentWord (s : State) (w : CmdWord) : State :=
  { s with
    st := .idle
    inp := { s.inp with rst := false, cmdValid := true, cmdOp := wordOp w, cmdAddr := wordAddr w, cmdLen := wordLen w,
                        cmdData := wordData w } }

end Sys2Proof.Machine
end

