-- ==== Sys2Proof/Machine/Illegal.lean ====
section
/-! DEFINITION. The seven illegal host op codes (30_encoding.md R95, 60_exceptions.md R213): accepted, no wire
activity, response ILLEGAL_OP. -/

namespace Sys2Proof.Machine

/-- Op code 0x0 (R95). -/
def execIllegal0 (addr : Addr) (len : Len) (data : Byte) (s : State) : Host.Outcome State Fault Refusal :=
  illegalStep 0x0#4 addr len data s

/-- Op code 0xA (R95). -/
def execIllegalA (addr : Addr) (len : Len) (data : Byte) (s : State) : Host.Outcome State Fault Refusal :=
  illegalStep 0xA#4 addr len data s

/-- Op code 0xB (R95). -/
def execIllegalB (addr : Addr) (len : Len) (data : Byte) (s : State) : Host.Outcome State Fault Refusal :=
  illegalStep 0xB#4 addr len data s

/-- Op code 0xC (R95). -/
def execIllegalC (addr : Addr) (len : Len) (data : Byte) (s : State) : Host.Outcome State Fault Refusal :=
  illegalStep 0xC#4 addr len data s

/-- Op code 0xD (R95). -/
def execIllegalD (addr : Addr) (len : Len) (data : Byte) (s : State) : Host.Outcome State Fault Refusal :=
  illegalStep 0xD#4 addr len data s

/-- Op code 0xE (R95). -/
def execIllegalE (addr : Addr) (len : Len) (data : Byte) (s : State) : Host.Outcome State Fault Refusal :=
  illegalStep 0xE#4 addr len data s

/-- Op code 0xF (R95). -/
def execIllegalF (addr : Addr) (len : Len) (data : Byte) (s : State) : Host.Outcome State Fault Refusal :=
  illegalStep 0xF#4 addr len data s

end Sys2Proof.Machine
end

