-- ==== Sys2Proof/Machine/Poll.lean ====
section
/-! DEFINITION. The write-completion wait (44_poll_fsm.md). -/

namespace Sys2Proof.Machine

/-- WAIT_WRITE_COMPLETE (R190): polling frames `05 D`, with the poll delay between them, until a status byte has
bit 0 clear. One step (R120) of a controller that executes it, or, in IDLE, accepts it; it has no cap (R194). -/
def execWaitWriteComplete (addr : Addr) (len : Len) (data : Byte) (s : State) : Host.Outcome State Fault Refusal :=
  commandStep .waitWriteComplete addr len data s

end Sys2Proof.Machine
end

