-- ==== Sys2Proof/Machine/StatusAccess.lean ====
section
/-! DEFINITION. The status family (42_status.md). Each meaning is one step (R120) of a controller that executes this
command, or, in IDLE, accepts it. -/

namespace Sys2Proof.Machine

/-- READ_STATUS (R150): the frame `05 D`; the second received byte goes to the host. -/
def execReadStatus (addr : Addr) (len : Len) (data : Byte) (s : State) : Host.Outcome State Fault Refusal :=
  commandStep .readStatus addr len data s

/-- WRITE_STATUS (R151): the frame `01 data`, the value verbatim. -/
def execWriteStatus (addr : Addr) (len : Len) (data : Byte) (s : State) : Host.Outcome State Fault Refusal :=
  commandStep .writeStatus addr len data s

end Sys2Proof.Machine
end

