-- ==== Sys2Proof/Machine/Transfer.lean ====
section
/-! DEFINITION. The byte and range transfers (43_data_transfer.md). Each meaning is one step (R120) of a controller
that executes this command, or, in IDLE, accepts it. -/

namespace Sys2Proof.Machine

/-- READ_BYTE (R170): the frame `03 hi lo D`; the fourth received byte goes to the host. -/
def execReadByte (addr : Addr) (len : Len) (data : Byte) (s : State) : Host.Outcome State Fault Refusal :=
  commandStep .readByte addr len data s

/-- WRITE_BYTE (R171): the frame `02 hi lo data`. -/
def execWriteByte (addr : Addr) (len : Len) (data : Byte) (s : State) : Host.Outcome State Fault Refusal :=
  commandStep .writeByte addr len data s

/-- READ_RANGE (R172): the frame `03 hi lo` and `len` dummy bytes, each received byte delivered before the next
exchange. -/
def execReadRange (addr : Addr) (len : Len) (data : Byte) (s : State) : Host.Outcome State Fault Refusal :=
  commandStep .readRange addr len data s

/-- WRITE_RANGE (R173): the frame `02 hi lo` and `len` bytes, each taken from the host before its exchange. -/
def execWriteRange (addr : Addr) (len : Len) (data : Byte) (s : State) : Host.Outcome State Fault Refusal :=
  commandStep .writeRange addr len data s

end Sys2Proof.Machine
end

