-- ==== Sys2Proof/Machine/WriteEnable.lean ====
section
/-! DEFINITION. The write-enable family (41_write_enable.md). Each meaning is one step (R120) of a controller that
executes this command, or, in IDLE, accepts it. -/

namespace Sys2Proof.Machine

/-- ENABLE_WRITE (R140): the frame `06`. -/
def execEnableWrite (addr : Addr) (len : Len) (data : Byte) (s : State) : Host.Outcome State Fault Refusal :=
  commandStep .enableWrite addr len data s

/-- DISABLE_WRITE (R141): the frame `04`. -/
def execDisableWrite (addr : Addr) (len : Len) (data : Byte) (s : State) : Host.Outcome State Fault Refusal :=
  commandStep .disableWrite addr len data s

end Sys2Proof.Machine
end

