-- ==== Sys2Proof/Machine/Dispatch.lean ====
section
/-! DEFINITION. One arm per command: its step of 40_transaction.md R120. -/

namespace Sys2Proof.Machine

def exec (i : Instr) (s : State) : Host.Outcome State Fault Refusal :=
  match i with
  | .enableWrite addr len data => Sys2Proof.Machine.execEnableWrite addr len data s
  | .disableWrite addr len data => Sys2Proof.Machine.execDisableWrite addr len data s
  | .readStatus addr len data => Sys2Proof.Machine.execReadStatus addr len data s
  | .writeStatus addr len data => Sys2Proof.Machine.execWriteStatus addr len data s
  | .readByte addr len data => Sys2Proof.Machine.execReadByte addr len data s
  | .writeByte addr len data => Sys2Proof.Machine.execWriteByte addr len data s
  | .readRange addr len data => Sys2Proof.Machine.execReadRange addr len data s
  | .writeRange addr len data => Sys2Proof.Machine.execWriteRange addr len data s
  | .waitWriteComplete addr len data => Sys2Proof.Machine.execWaitWriteComplete addr len data s
  | .illegal0 addr len data => Sys2Proof.Machine.execIllegal0 addr len data s
  | .illegalA addr len data => Sys2Proof.Machine.execIllegalA addr len data s
  | .illegalB addr len data => Sys2Proof.Machine.execIllegalB addr len data s
  | .illegalC addr len data => Sys2Proof.Machine.execIllegalC addr len data s
  | .illegalD addr len data => Sys2Proof.Machine.execIllegalD addr len data s
  | .illegalE addr len data => Sys2Proof.Machine.execIllegalE addr len data s
  | .illegalF addr len data => Sys2Proof.Machine.execIllegalF addr len data s

end Sys2Proof.Machine
end

