-- ==== Sys2Proof/Machine/Step.lean ====
section
/-! DEFINITION. One step of the machine (40_transaction.md R120): what the device does on its own, then the reset step
if `rst` is 1, otherwise the step of the command that is due, and then the next values of the input ports. -/

namespace Sys2Proof.Machine

/-- One step. Reset takes precedence over every other step (R120, R217); in IDLE with no command presented the
controller is held (R121). -/
def step (s : State) : Host.Outcome State Fault Refusal :=
  if s.inp.rst then .next (nextInputs (resetStep (deviceStep s)))
  else
    match fetchInstr (deviceStep s) with
    | none => .next (nextInputs (deviceStep s))
    | some i => thenNextInputs (exec i (deviceStep s))

/-- The command word `w` of `nbits` bits (the bits above them 0), presented on the command ports of an IDLE
controller: the very next step accepts it (log 5). -/
def State.withFetchWord (s : State) (nbits w : Nat) : State :=
  presentWord s (BitVec.ofNat 64 (w % 2 ^ nbits))

end Sys2Proof.Machine
end

