-- ==== Sys2Proof/Machine/Assembler.lean ====
section
/-! DEFINITION. The assembler syntax and the pseudo-instructions of 30_encoding.md R110 and R111: what command word a
line stands for, what its write-data stream is, and how a pseudo-instruction expands into lines. -/

namespace Sys2Proof.Machine

/-- The command word of a line; a field the command does not take is encoded 0 (R110). -/
def asmWord : AsmLine → CmdWord
  | .enableWrite => encode (.enableWrite 0 0 0)
  | .disableWrite => encode (.disableWrite 0 0 0)
  | .readStatus => encode (.readStatus 0 0 0)
  | .writeStatus data => encode (.writeStatus 0 0 data)
  | .readByte addr => encode (.readByte addr 0 0)
  | .writeByte addr data => encode (.writeByte addr 0 data)
  | .readRange addr len => encode (.readRange addr len 0)
  | .writeRange addr len _ => encode (.writeRange addr len 0)
  | .waitWriteComplete => encode (.waitWriteComplete 0 0 0)
  | .word w => w

/-- The write-data stream of a line: not part of the command word (R91, R110). -/
def asmStream : AsmLine → List Byte
  | .writeRange _ _ bytes => bytes
  | .enableWrite | .disableWrite | .readStatus | .writeStatus _ | .readByte _ | .writeByte _ _ | .readRange _ _
  | .waitWriteComplete | .word _ => []

/-- A list of byte values as R110 writes it, without the brackets. -/
def asmBytesText : List Byte → String
  | [] => ""
  | [b] => toString b.toNat
  | b :: bs => toString b.toNat ++ ", " ++ asmBytesText bs

/-- The text of a line, numbers in decimal (R110). -/
def asmText : AsmLine → String
  | .enableWrite => "ENABLE_WRITE"
  | .disableWrite => "DISABLE_WRITE"
  | .readStatus => "READ_STATUS"
  | .writeStatus data => "WRITE_STATUS " ++ toString data.toNat
  | .readByte addr => "READ_BYTE " ++ toString addr.toNat
  | .writeByte addr data => "WRITE_BYTE " ++ toString addr.toNat ++ ", " ++ toString data.toNat
  | .readRange addr len => "READ_RANGE " ++ toString addr.toNat ++ ", " ++ toString len.toNat
  | .writeRange addr len bytes =>
    "WRITE_RANGE " ++ toString addr.toNat ++ ", " ++ toString len.toNat ++ ", [" ++ asmBytesText bytes ++ "]"
  | .waitWriteComplete => "WAIT_WRITE_COMPLETE"
  | .word w => ".word " ++ toString w.toNat

/-- `WRITE_STATUS_SYNC <v>` (R111). -/
def writeStatusSync (v : Byte) : List AsmLine := [.enableWrite, .writeStatus v, .waitWriteComplete]

/-- `WRITE_BYTE_SYNC <a>, <v>` (R111). -/
def writeByteSync (a : Addr) (v : Byte) : List AsmLine := [.enableWrite, .writeByte a v, .waitWriteComplete]

/-- `WRITE_RANGE_SYNC <a>, <n>, [...]` (R111), `n` being the length of the list. -/
def writeRangeSync (a : Addr) (bytes : List Byte) : List AsmLine :=
  [.enableWrite, .writeRange a (BitVec.ofNat 16 bytes.length) bytes, .waitWriteComplete]

/-- The chunks of `WRITE_PAGED` (R111): start address and bytes of each, in order. `fuel` bounds their number; the
number of bytes is always enough, since a chunk takes at least one. -/
def pagedChunks (page : Nat) : Nat → Nat → List Byte → List (Nat × List Byte)
  | 0, _, _ => []
  | fuel + 1, a, bytes =>
    if bytes.isEmpty then []
    else
      let n := min (page - a % page) bytes.length
      (a, bytes.take n) :: pagedChunks page fuel (a + n) (bytes.drop n)

/-- `WRITE_PAGED <a>, <n>, [...]` (R111): one WRITE_RANGE_SYNC per chunk, nothing for an empty list. A chunk address
above 0xFFFF wraps to 16 bits (log 29). -/
def writePaged (P : DevParams) (a : Addr) (bytes : List Byte) : List AsmLine :=
  (pagedChunks (pageSize P) bytes.length a.toNat bytes).flatMap
    (fun c => writeRangeSync (BitVec.ofNat 16 c.1) c.2)

end Sys2Proof.Machine
end

