-- ==== Sys2Proof/Machine/Ports.lean ====
section
/-! DEFINITION. The output ports of 10_state.md R35, as functions of the registers, and the physical select line of
40_transaction.md R122. -/

namespace Sys2Proof.Machine

/-- The outputs of R35. `xTx` is none where the latched op code is illegal: the formatter defines no byte for it
(30_encoding.md R105; log 25). -/
structure Outputs where
  cmdReady : Bool
  wdReady : Bool
  rdValid : Bool
  rdData : Byte
  rspValid : Bool
  rspCode : Code
  xReq : Bool
  xTx : Option Byte
  csActive : Bool
  dReq : Bool
  dUs : Nat
deriving DecidableEq, Repr

/-- The output ports of a state (R35). -/
def outputs (s : State) : Outputs :=
  { cmdReady := s.st == .idle
    wdReady := s.st == .fetch
    rdValid := s.st == .deliver
    rdData := s.rbuf
    rspValid := s.st == .resp
    rspCode := s.code
    xReq := s.st == .xchg
    xTx := (Command.ofOp s.op).map (fun c => s.tx c)
    csActive := s.cs
    dReq := s.st == .pause
    dUs := pollDelayUs }

/-- The physical select line: it rests high and is driven low for a frame (R122, 60_exceptions.md R227,
90_conflicts.md C1; log 22). True means high. -/
def selectLineHigh (s : State) : Bool := !(outputs s).csActive

/-- The 3-bit encoding of `r.st` (R20). No rule depends on the numbers. -/
def stCode : St → BitVec 3
  | .idle => 0
  | .assert => 1
  | .fetch => 2
  | .xchg => 3
  | .deliver => 4
  | .deassert => 5
  | .pause => 6
  | .resp => 7

end Sys2Proof.Machine
end

