-- ==== Sys2Proof/Safety.lean ====
section
/-! DEFINITION. What a safe state, a safe trace and a disciplined host are, in the terms the claims use: the invariants
of the controller (10_state.md R45, R25), the shape of a trace (40_transaction.md R130 to R134), the form of the
device's data, runs of one command under given ports, and the host's duties (70_reset R250 to R256). -/

namespace Sys2Proof.Machine

/-- The four states in which chip-select is active (R45). -/
def inFrame : St → Bool
  | .fetch | .xchg | .deliver | .deassert => true
  | .idle | .assert | .pause | .resp => false

/-- Chip-select is active exactly in FETCH, XCHG, DELIVER and DEASSERT (R45). -/
abbrev CsInv (s : State) : Prop := s.cs = inFrame s.st

/-- Where a command stands in its frame (R25, R104, R107, R127, R211): outside IDLE and RESP the latched op is legal;
a position to exchange lies inside the frame; a frame ends at its length, or before it by a fault; the response code
is ILLEGAL_OP exactly for an illegal op, and never 3. -/
def PosInv (s : State) : Prop :=
  match s.st with
  | .idle => True
  | .assert => (∃ c, Command.ofOp s.op = some c) ∧ s.k = 0 ∧ s.fault = false
  | .fetch => Command.ofOp s.op = some .writeRange ∧ 3 ≤ s.k ∧ s.k < frameLen .writeRange s.len ∧ s.fault = false
  | .xchg => ∃ c, Command.ofOp s.op = some c ∧ s.k < frameLen c s.len ∧ s.fault = false
  | .deliver => ∃ c, Command.ofOp s.op = some c ∧ rxUse c s.k = .deliver ∧ s.k < frameLen c s.len ∧ s.fault = false
  | .deassert => ∃ c, Command.ofOp s.op = some c ∧
      (if s.fault then s.k < frameLen c s.len else s.k = frameLen c s.len)
  | .pause => Command.ofOp s.op = some .waitWriteComplete ∧ s.fault = false
  | .resp => s.code ≠ 3 ∧ (s.code = codeIllegalOp ↔ Command.ofOp s.op = none)

/-- Where a trace stands: what its last command has done so far. -/
inductive Phase where
  /-- no command owns the link -/
  | rest
  /-- a command was accepted, or its poll delay is over, and no frame is open -/
  | accepted (op : OpCode) (len : Len)
  /-- its frame is open and `n` bytes were exchanged -/
  | framed (op : OpCode) (len : Len) (n : Nat)
  /-- its frame is open and an exchange failed -/
  | broken (op : OpCode) (len : Len)
  /-- its frame completed and is closed -/
  | closed (op : OpCode) (len : Len)
  /-- its frame was cut by a fault and is closed -/
  | failed (op : OpCode) (len : Len)
deriving DecidableEq, Repr

/-- Which event may follow at each place of a trace (R100, R127, R130 to R134, R198, R213, R241): a frame opens once
per command (again only after the poll delay of WAIT_WRITE_COMPLETE), every exchange and every data beat lies inside
one, a frame closes after exactly FrameLen exchanges or right after a failed one, and the response follows. -/
def phaseStep : Phase → Event → Option Phase
  | _, .rst => some .rest
  | .rest, .cmd op _ len _ => some (.accepted op len)
  | .accepted op len, .csOn => if (Command.ofOp op).isSome then some (.framed op len 0) else none
  | .accepted op _, .rsp code => if (Command.ofOp op).isNone ∧ code = codeIllegalOp then some .rest else none
  | .framed op len n, .xc _ _ => some (.framed op len (n + 1))
  | .framed op len n, .wd _ => if op = Command.writeRange.op then some (.framed op len n) else none
  | .framed op len n, .rd _ => some (.framed op len n)
  | .framed op len _, .xcFault _ => some (.broken op len)
  | .framed op len n, .csOff =>
    match Command.ofOp op with
    | some c => if n = (frameLen c len).toNat then some (.closed op len) else none
    | none => none
  | .broken op len, .csOff => some (.failed op len)
  | .closed op len, .dly _ => if op = Command.waitWriteComplete.op then some (.accepted op len) else none
  | .closed _ _, .rsp code => if code = codeOk then some .rest else none
  | .failed _ _, .rsp code => if code = codeTransportFault then some .rest else none
  | _, _ => none

/-- Where a trace stands that began at rest; none if some event of it may not stand where it stands. -/
def phaseOf (trace : List Event) : Option Phase :=
  trace.foldl (fun p e => p.bind (fun q => phaseStep q e)) (some .rest)

/-- The place in a trace that belongs to a state. -/
def statePhase (s : State) : Phase :=
  match s.st with
  | .idle => .rest
  | .assert => .accepted s.op s.len
  | .fetch | .xchg => .framed s.op s.len s.k.toNat
  | .deliver => .framed s.op s.len (s.k.toNat + 1)
  | .deassert => if s.fault then .broken s.op s.len else .framed s.op s.len s.k.toNat
  | .pause => .closed s.op s.len
  | .resp =>
    if s.code = codeIllegalOp then .accepted s.op s.len
    else if s.code = codeTransportFault then .failed s.op s.len else .closed s.op s.len

/-- The events so far are in order, and stand where the state stands. -/
abbrev TraceInv (s : State) : Prop := phaseOf s.trace = some (statePhase s)

/-- The page buffer: offsets strictly rising, each inside a page (20_memory.md R67). -/
abbrev PageBuf.wf (P : DevParams) (buf : List Host.Cell) : Prop := cellsRising buf ∧ ∀ c ∈ buf, c.1 < pageSize P

/-- An internal write stays inside one page of the array (R67). -/
def Pending.wf (P : DevParams) : Pending → Prop
  | .data page buf => page % pageSize P = 0 ∧ page < memSize P ∧ PageBuf.wf P buf
  | .status _ => True
  | .unknown => True

/-- An open frame: no operand before the opcode, the page buffer in form, the pointer of a write inside the array. -/
def DevFrame.wf (P : DevParams) (f : DevFrame) : Prop :=
  (f.opcode = none → f.count = 0) ∧ PageBuf.wf P f.buf ∧
    (f.opcode = some wireWriteData → 2 ≤ f.count → f.ptr < memSize P)

/-- The device's data are in form: the array canonical and inside `MEM_SIZE`, the pending write and the open frame
in form. -/
def DeviceInv (P : DevParams) (d : Device) : Prop :=
  Memory.wf P d.mem ∧ (∀ c ∈ d.mem, c.1 < memSize P) ∧ (∀ p, d.pending = some p → Pending.wf P p) ∧
    (∀ f, d.frame = some f → DevFrame.wf P f)

/-- `exec i`, once per given value of the input ports: a run of one command as its steps see it, with nothing
happening on the device between them. It stops where `exec` stops. -/
def execRun (i : Instr) : List Inputs → State → Host.Outcome State Fault Refusal
  | [], s => .next s
  | x :: xs, s =>
    match exec i { s with inp := x } with
    | .next t => execRun i xs t
    | .fault r => .fault r
    | .refused r => .refused r

/-- The transport completes the exchange and reports the byte `b` (R35). -/
def Inputs.ack (x : Inputs) (b : Byte) : Inputs := { x with xAck := true, xErr := false, xRx := .line b }

/-- The transport completes the exchange and reports a failure (R35, R127). -/
def Inputs.nack (x : Inputs) : Inputs := { x with xAck := true, xErr := true }

/-- The host offers the write-data byte `b` (R35). -/
def Inputs.offerWd (x : Inputs) (b : Byte) : Inputs := { x with wdValid := true, wdData := b }

/-- The host takes the read-data byte (R35). -/
def Inputs.takeRd (x : Inputs) : Inputs := { x with rdReady := true }

/-- The host takes the response (R35). -/
def Inputs.takeRsp (x : Inputs) : Inputs := { x with rspReady := true }

/-- The delay collaborator reports that the delay has elapsed (R35). -/
def Inputs.delayDone (x : Inputs) : Inputs := { x with dDone := true }

/-- One polling frame of WAIT_WRITE_COMPLETE and the step after it, as the outside sees to it: the byte received with the
opcode, the status byte, and the other ports in each of the five steps. -/
structure Poll where
  rx : Byte
  status : Byte
  atAssert : Inputs
  atOpcode : Inputs
  atStatus : Inputs
  atDeassert : Inputs
  /-- the step after the frame: the pause, or the response -/
  atEnd : Inputs
deriving DecidableEq, Repr

/-- The ports during the four steps of the frame. -/
def Poll.frame (p : Poll) : List Inputs := [p.atAssert, p.atOpcode.ack p.rx, p.atStatus.ack p.status, p.atDeassert]

/-- The ports during the frame of a poll that reads busy, and during its pause. -/
def Poll.busy (p : Poll) : List Inputs := p.frame ++ [p.atEnd.delayDone]

/-- The events of a polling frame (R190). -/
def Poll.events (p : Poll) : List Event := [.csOn, .xc 0x05 p.rx, .xc Config.dummyByte p.status, .csOff]

/-- The host presents the command `i`, and nothing else happens. -/
def Inputs.command (i : Instr) : Inputs :=
  { Inputs.quiet with cmdValid := true, cmdOp := i.op, cmdAddr := i.addr, cmdLen := i.len, cmdData := i.data }

/-- The transport completes the exchange with the device's own answer: the device contract as a premise (R34). -/
def Inputs.ackDevice : Inputs := { Inputs.quiet with xAck := true, xRx := .device }

/-- The ports during one polling frame that reads busy: assert, two exchanges, deassert, delay. -/
def pollBusyInputs : List Inputs :=
  [Inputs.quiet, Inputs.ackDevice, Inputs.ackDevice, Inputs.quiet, Inputs.quiet.delayDone]

/-- The host program of 20_memory.md R77 on a device that follows the contract: ENABLE_WRITE, `WRITE_BYTE a, v`,
WAIT_WRITE_COMPLETE with `j` polls that read busy before the internal write completes, `READ_BYTE a`. -/
def byteRoundTripInputs (j : Nat) (a : Addr) (v : Byte) : List Inputs :=
  [Inputs.command (.enableWrite 0 0 0), Inputs.quiet, Inputs.ackDevice, Inputs.quiet, Inputs.quiet.takeRsp]
  ++ [Inputs.command (.writeByte a 0 v), Inputs.quiet, Inputs.ackDevice, Inputs.ackDevice, Inputs.ackDevice,
      Inputs.ackDevice, Inputs.quiet, Inputs.quiet.takeRsp]
  ++ [Inputs.command (.waitWriteComplete 0 0 0)]
  ++ (List.replicate j pollBusyInputs).flatten
  ++ [{ Inputs.quiet with devDone := true }, Inputs.ackDevice, Inputs.ackDevice, Inputs.quiet, Inputs.quiet.takeRsp]
  ++ [Inputs.command (.readByte a 0 0), Inputs.quiet, Inputs.ackDevice, Inputs.ackDevice, Inputs.ackDevice,
      Inputs.ackDevice, Inputs.quiet.takeRd, Inputs.quiet, Inputs.quiet.takeRsp]

/-- The device sees the bytes of one whole frame (R100, R61). -/
def deviceFrame (P : DevParams) (n : Nat) (bytes : List Byte) (d : Device) : Device :=
  deviceCsOff P n (bytes.foldl (deviceTake P) (deviceCsOn d))

/-- What the device answers to the byte after `bytes` of a frame. -/
def deviceReply (P : DevParams) (n : Nat) (bytes : List Byte) (d : Device) : Byte :=
  deviceAnswer P n (bytes.foldl (deviceTake P) (deviceCsOn d))

/-- A WRITE_RANGE of `n` bytes at `s` that does not cross a page boundary (70_reset R253). -/
abbrev pageSafe (P : DevParams) (s n : Nat) : Prop := s % pageSize P + n ≤ pageSize P

/-- A data command of `n` bytes at `s` that stays inside the device (R254). -/
abbrev rangeSafe (P : DevParams) (s n : Nat) : Prop := s + n ≤ memSize P

/-- A WRITE_STATUS value that means to change only BP and WPEN: bits 0, 1 and 6:4 are clear (R256). -/
abbrev statusSafe (v : Byte) : Prop := v &&& 0x73#8 = 0

/-- The host offers a write-data byte only while a WRITE_RANGE runs (R257): one left offered outside would be taken by
the next WRITE_RANGE. -/
abbrev streamSafe (s : State) : Prop := s.inp.wdValid = true → s.st ≠ .idle ∧ s.op = Command.writeRange.op

/-- The host's duties of R250 to R252 on a list of commands that all respond OK, with no device reset among them, from a
point where the latch is known set (`enabled`) and a write may be in progress (`busy`). A write-capable command needs the
latch set before it and leaves it to be set again; after one, no command but READ_STATUS comes before a
WAIT_WRITE_COMPLETE. A write in progress completes before that wait responds, and its completion clears the latch (R63),
so after a wait that began while one may be in progress the latch is not known set. At power-up, after an abandoned
command and after a fault `busy` is true (R245). An illegal op code never reaches the device (R213). -/
def disciplined : Bool → Bool → List Instr → Bool
  | _, _, [] => true
  | enabled, busy, i :: rest =>
    match i with
    | .enableWrite _ _ _ => !busy && disciplined true busy rest
    | .disableWrite _ _ _ => !busy && disciplined false busy rest
    | .readStatus _ _ _ => disciplined enabled busy rest
    | .writeStatus _ _ _ | .writeByte _ _ _ | .writeRange _ _ _ => enabled && !busy && disciplined false true rest
    | .readByte _ _ _ | .readRange _ _ _ => !busy && disciplined enabled busy rest
    | .waitWriteComplete _ _ _ => disciplined (enabled && !busy) false rest
    | .illegal0 _ _ _ | .illegalA _ _ _ | .illegalB _ _ _ | .illegalC _ _ _ | .illegalD _ _ _ | .illegalE _ _ _
    | .illegalF _ _ _ => disciplined enabled busy rest

end Sys2Proof.Machine
end

