-- ==== Sys2Proof/Certificates/Slice0/Obligations.lean ====
section
/-! DEFINITION. The statements for the provers, from the numbered rules of spec/. -/

open Sys2Proof Sys2Proof.Machine

/-! ## Encoding (30_encoding.md) -/

/-- The decode vectors E1 to E15 of 95_test_vectors.md §2.1 and one word for each op code they leave out: a sanity
statement over fixed words (R90, R92, R95). -/
def Obligations.SpecWordsDecode : Prop :=
  decodeWord 0x0000000000000001#64 = .enableWrite 0 0 0 ∧
  decodeWord 0x0000000000000002#64 = .disableWrite 0 0 0 ∧
  decodeWord 0x0000000000000003#64 = .readStatus 0 0 0 ∧
  decodeWord 0x000000000000FF04#64 = .writeStatus 0 0 0xFF ∧
  decodeWord 0x0000000000000005#64 = .readByte 0 0 0 ∧
  decodeWord 0x00000000FFFFFF06#64 = .writeByte 0xFFFF 0 0xFF ∧
  decodeWord 0x0000FFFFFFFF0007#64 = .readRange 0xFFFF 0xFFFF 0 ∧
  decodeWord 0x0000000000000008#64 = .writeRange 0 0 0 ∧
  decodeWord 0x0000000000000009#64 = .waitWriteComplete 0 0 0 ∧
  decodeWord 0x0000000000000000#64 = .illegal0 0 0 0 ∧
  decodeWord 0x000000000000000A#64 = .illegalA 0 0 0 ∧
  decodeWord 0x000000000000000B#64 = .illegalB 0 0 0 ∧
  decodeWord 0x000000000000000C#64 = .illegalC 0 0 0 ∧
  decodeWord 0x000000000000000D#64 = .illegalD 0 0 0 ∧
  decodeWord 0x000000000000000E#64 = .illegalE 0 0 0 ∧
  decodeWord 0x000000000000000F#64 = .illegalF 0 0 0 ∧
  decodeWord 0xFFFF0000000000F1#64 = .enableWrite 0 0 0 ∧
  decodeWord 0x0000123456789A01#64 = .enableWrite 0x5678 0x1234 0x9A ∧
  decodeWord 0x00000000ABCD0003#64 = .readStatus 0xABCD 0 0

/-- Decoding the command word of any command gives the command back, with every field (R90, R92). -/
def Obligations.DecodeEncodeRoundTrip : Prop := ∀ i : Instr, decodeWord (encode i) = i

/-- Encoding a decoded word gives its op, data, addr and len fields back, with the reserved bits 7:4 and 63:48 clear;
two words that differ only in those bits decode alike (R90, R95). -/
def Obligations.ReservedBitsIgnored : Prop :=
  (∀ w : CmdWord, encode (decodeWord w) = w &&& 0x0000FFFFFFFFFF0F#64) ∧
  (∀ w v : CmdWord, w &&& 0x0000FFFFFFFFFF0F#64 = v &&& 0x0000FFFFFFFFFF0F#64 → decodeWord w = decodeWord v)

/-- R96: every 4-bit op selects exactly one row, one of the nine commands or illegal; which row depends on the four
bits under the mask 0xF only. -/
def Obligations.DecodingTotalByOp : Prop :=
  (∀ o : OpCode, (∃ c, Command.ofOp o = some c ∧ c.op = o) ∨
    (Command.ofOp o = none ∧ (o = 0x0#4 ∨ 0xA#4 ≤ o))) ∧
  (∀ c : Command, Command.ofOp c.op = some c ∧ 0x1#4 ≤ c.op ∧ c.op ≤ 0x9#4) ∧
  (∀ (o : OpCode) (a : Addr) (n : Len) (d : Byte), (decodePorts o a n d).op = o) ∧
  (∀ w v : CmdWord, w &&& 0xF#64 = v &&& 0xF#64 → (decodeWord w).mnemonic = (decodeWord v).mnemonic) ∧
  (∀ i j : Instr, i.mnemonic = j.mnemonic → i.op = j.op)

/-! ## The formatter (30_encoding.md R101 to R109) -/

/-- R104: FrameLen of each command; it is never 0 and at most 65538. For an illegal op no frame is run: its command
goes from IDLE straight to the response. -/
def Obligations.FrameLengths : Prop :=
  (∀ n : Len, (frameLen .enableWrite n).toNat = 1 ∧ (frameLen .disableWrite n).toNat = 1 ∧
    (frameLen .readStatus n).toNat = 2 ∧ (frameLen .writeStatus n).toNat = 2 ∧
    (frameLen .waitWriteComplete n).toNat = 2 ∧ (frameLen .readByte n).toNat = 4 ∧
    (frameLen .writeByte n).toNat = 4 ∧ (frameLen .readRange n).toNat = 3 + n.toNat ∧
    (frameLen .writeRange n).toNat = 3 + n.toNat) ∧
  (∀ (c : Command) (n : Len), 1 ≤ (frameLen c n).toNat ∧ (frameLen c n).toNat ≤ 65538) ∧
  (∀ (o : OpCode) (a : Addr) (n : Len) (d : Byte) (s : State), Command.ofOp o = none → s.st = .idle →
    ∃ t, exec (decodePorts o a n d) s = .next t ∧ t.st = .resp ∧ t.cs = s.cs)

/-- The bytes sent at positions 0 to FrameLen - 1 of each command's frame, in order (R103, R105): for a range of any
length too. For WRITE_RANGE the byte of every data position is the one in `r.wbuf`. -/
def Obligations.FrameBytes : Prop :=
  ∀ (a : Addr) (n : Len) (d w : Byte),
    let frame := fun c : Command =>
      (List.range (frameLen c n).toNat).map (fun k => txByte c (BitVec.ofNat 17 k) a d w)
    frame .enableWrite = [0x06#8] ∧
    frame .disableWrite = [0x04#8] ∧
    frame .readStatus = [0x05#8, Config.dummyByte] ∧
    frame .writeStatus = [0x01#8, d] ∧
    frame .waitWriteComplete = [0x05#8, Config.dummyByte] ∧
    frame .readByte = [0x03#8, addrHi a, addrLo a, Config.dummyByte] ∧
    frame .writeByte = [0x02#8, addrHi a, addrLo a, d] ∧
    frame .readRange = 0x03#8 :: addrHi a :: addrLo a :: List.replicate n.toNat Config.dummyByte ∧
    frame .writeRange = 0x02#8 :: addrHi a :: addrLo a :: List.replicate n.toNat w

/-- R109: a byte command and a range command of length 1 put the same frame on the wire, and the reading pair delivers
the same byte. The written byte is `r.cdata` in one and `r.wbuf` in the other. -/
def Obligations.ByteAndRangeFramesAgree : Prop :=
  ∀ (a : Addr) (n : Len) (v d w : Byte) (k : Pos),
    frameLen .readByte n = frameLen .readRange 1 ∧ frameLen .writeByte n = frameLen .writeRange 1 ∧
    (k < frameLen .readByte n →
      txByte .readByte k a d w = txByte .readRange k a d w ∧ rxUse .readByte k = rxUse .readRange k ∧
      txByte .writeByte k a v w = txByte .writeRange k a d v ∧ rxUse .writeByte k = rxUse .writeRange k)

/-- The first byte of every frame is one of the six wire opcodes (R102), and it is 0x06 for ENABLE_WRITE only (R142).
-/
def Obligations.SixWireOpcodes : Prop :=
  ∀ (c : Command) (a : Addr) (d w : Byte),
    txByte c 0 a d w ∈ [0x06#8, 0x04#8, 0x05#8, 0x01#8, 0x03#8, 0x02#8] ∧
    (txByte c 0 a d w = 0x06#8 ↔ c = .enableWrite)

/-- The two address bytes of a data frame, sent at positions 1 and 2, are the address high byte first (R52). -/
def Obligations.AddressBigEndian : Prop :=
  ∀ (c : Command) (a : Addr) (d w : Byte), 4 ≤ (frameLen c 1).toNat →
    (txByte c 1 a d w).toNat * 256 + (txByte c 2 a d w).toNat = a.toNat

/-! ## Fetching and stepping (40_transaction.md R120) -/

/-- A step of a machine whose `rst` is 0 is the meaning of the command that is due: in IDLE the one on the command
ports, elsewhere the latched one; around it stand only the device's own step before and the next port values after.
That a meaning is one step, and where those two stand, are the model's choices (log 1, 4, 12). -/
def Obligations.StepRunsDueCommand : Prop :=
  ∀ s : State, s.inp.rst = false →
    (s.st = .idle → s.inp.cmdValid = true →
      step s = thenNextInputs
        (exec (decodePorts s.inp.cmdOp s.inp.cmdAddr s.inp.cmdLen s.inp.cmdData) (deviceStep s))) ∧
    (s.st ≠ .idle → step s = thenNextInputs (exec (decodePorts s.op s.addr s.len s.cdata) (deviceStep s)))

/-- A command word presented to the machine is the instruction its very next step runs: the model's way of giving a
program to a machine that fetches nothing (log 5). -/
def Obligations.PresentedWordRuns : Prop :=
  ∀ (s : State) (nbits w : Nat), nbits ≤ 64 →
    ∃ i, decodeTableWord nbits w = some i ∧
      step (s.withFetchWord nbits w) = thenNextInputs (exec i (deviceStep (s.withFetchWord nbits w)))

/-- Every step emits at most one event, at the end of the trace (R34, R120). -/
def Obligations.AtMostOneEventPerStep : Prop :=
  ∀ s t : State, step s = .next t → ∃ l : List Event, t.trace = s.trace ++ l ∧ l.length ≤ 1

/-! ## The steps, for every command (40_transaction.md R121 to R129, 44_poll_fsm.md R192 and R193) -/

/-- R121: in IDLE `cmd_ready` is 1; a command of any op code is accepted and latched; a legal one goes to ASSERT, an
illegal one to RESP with ILLEGAL_OP; without `cmd_valid` the controller is held: no register changes and no event is
emitted. -/
def Obligations.AcceptanceLatchesCommand : Prop :=
  ∀ s : State, s.st = .idle →
    (outputs s).cmdReady = true ∧
    (∀ i : Instr, exec i s = .next { s with
      op := i.op, addr := i.addr, len := i.len, cdata := i.data, k := 0, fault := false
      trace := s.trace ++ [.cmd i.op i.addr i.len i.data]
      code := if 0x1#4 ≤ i.op ∧ i.op ≤ 0x9#4 then s.code else 2#2
      st := if 0x1#4 ≤ i.op ∧ i.op ≤ 0x9#4 then .assert else .resp }) ∧
    (s.inp.rst = false → s.inp.cmdValid = false →
      ∃ t, step s = .next t ∧ t = { s with dev := t.dev, inp := t.inp, script := t.script, draws := t.draws })

/-- ASSERT emits `CsOn`, drives chip-select active and goes to XCHG, for every command, under every port value; no
command needs a write-data byte at position 0 (R122). That the physical line is driven low and rests high is marked in
R122 as taken from general knowledge (log 22). -/
def Obligations.AssertStartsFrame : Prop :=
  ∀ (i : Instr) (s : State), s.st = .assert →
    exec i s = .next { s with cs := true, st := .xchg, trace := s.trace ++ [.csOn], dev := deviceCsOn s.dev } ∧
    selectLineHigh { s with cs := true } = false ∧ selectLineHigh { s with cs := false } = true ∧
    (∀ c : Command, needsFetch c 0 = false)

/-- In XCHG (R123) an exchange is requested and `x_tx` is TxByte throughout; without `x_ack` nothing changes; a
completed exchange emits `Xc(tx, rx)` and disposes of `rx` by RxUse: delivered bytes to `r.rbuf`, polled bytes to
`r.sr`, others nowhere. That `rx` is a given byte or the device's own answer is the model's choice (log 11). -/
def Obligations.ExchangeDisposesOfByte : Prop :=
  ∀ (i : Instr) (c : Command) (s : State), Command.ofOp i.op = some c → s.op = i.op → s.st = .xchg →
    let tx := txByte c s.k s.addr s.cdata s.wbuf
    let u := { s with trace := s.trace ++ [.xc tx s.rx], dev := deviceTake Config.device s.dev tx }
    (outputs s).xReq = true ∧ (outputs s).xTx = some tx ∧
    (s.inp.xAck = false → exec i s = .next s) ∧
    (s.inp.xAck = true → s.inp.xErr = false →
      (rxUse c s.k = .deliver → exec i s = .next { u with rbuf := s.rx, st := .deliver }) ∧
      (rxUse c s.k = .poll → exec i s = .next (advance c { u with sr := s.rx })) ∧
      (rxUse c s.k = .discard → exec i s = .next (advance c u)))

/-- A failed exchange (R127) emits `XcFault(tx)`, sets `r.fault` and goes to DEASSERT at once, for every legal command
at every position. That the device does not take the failing byte (log 31) and that its variables, which R212 leaves
any value, stay as they are until `CsOff` (log 15) are the model's choice. -/
def Obligations.TransportFaultStopsFrame : Prop :=
  ∀ (i : Instr) (c : Command) (s : State), Command.ofOp i.op = some c → s.st = .xchg →
    s.inp.xAck = true → s.inp.xErr = true →
    exec i s = .next { s with
      fault := true, st := .deassert
      trace := s.trace ++ [.xcFault (txByte c s.k s.addr s.cdata s.wbuf)]
      dev := deviceCut s.dev }

/-- R124: in FETCH `wd_ready` is 1; the offered byte is taken into `r.wbuf` with `Wd(b)` and XCHG follows; without
`wd_valid` nothing changes; chip-select is active where it follows the state (R45). -/
def Obligations.FetchTakesWriteData : Prop :=
  ∀ (i : Instr) (s : State), s.st = .fetch →
    (outputs s).wdReady = true ∧ (CsInv s → (outputs s).csActive = true) ∧
    exec i s = .next (if s.inp.wdValid then
      { s with wbuf := s.inp.wdData, st := .xchg, trace := s.trace ++ [.wd s.inp.wdData] } else s)

/-- R126: in DELIVER `rd_valid` is 1 and `rd_data` is `r.rbuf`; the beat emits `Rd(b)` and advances to the next
position; without `rd_ready` nothing changes; chip-select is active where it follows the state (R45). -/
def Obligations.DeliverGivesByte : Prop :=
  ∀ (i : Instr) (c : Command) (s : State), Command.ofOp i.op = some c → s.st = .deliver →
    (outputs s).rdValid = true ∧ (outputs s).rdData = s.rbuf ∧ (CsInv s → (outputs s).csActive = true) ∧
    exec i s = .next (if s.inp.rdReady then advance c { s with trace := s.trace ++ [.rd s.rbuf] } else s)

/-- Advancing moves to the next position: to DEASSERT at FrameLen, to FETCH for a data position of WRITE_RANGE, and to
XCHG otherwise (R125, R107); a position inside the frame never wraps. -/
def Obligations.AdvanceVisitsNextPosition : Prop :=
  ∀ (c : Command) (s : State), s.k < frameLen c s.len →
    ∃ t : State, advance c s = t ∧ t = { s with k := s.k + 1, st := t.st } ∧ t.k.toNat = s.k.toNat + 1 ∧
      (t.k.toNat = (frameLen c s.len).toNat → t.st = .deassert) ∧
      (t.k.toNat ≠ (frameLen c s.len).toNat →
        (c = .writeRange ∧ 3 ≤ t.k.toNat → t.st = .fetch) ∧ (¬(c = .writeRange ∧ 3 ≤ t.k.toNat) → t.st = .xchg))

/-- The end of a frame (R128, R192): DEASSERT emits `CsOff` and drives chip-select inactive, for every command under
every port value; a fault gives TRANSPORT_FAULT; a polling frame pauses if bit 0 of its status byte is 1; everything
else is OK. What the end of the frame does to the device is the contract's, with the model's choices of log 15. -/
def Obligations.DeassertEndsFrame : Prop :=
  ∀ (i : Instr) (s : State), s.st = .deassert →
    let u := { s with cs := false, trace := s.trace ++ [Event.csOff], dev := deviceCsOff Config.device s.draws s.dev }
    (s.fault = true → exec i s = .next { u with code := 1#2, st := .resp }) ∧
    (s.fault = false → i.op = 0x9#4 → s.sr.getLsbD 0 = true → exec i s = .next { u with st := .pause }) ∧
    (s.fault = false → i.op = 0x9#4 → s.sr.getLsbD 0 = false → exec i s = .next { u with code := 0#2, st := .resp }) ∧
    (s.fault = false → i.op ≠ 0x9#4 → exec i s = .next { u with code := 0#2, st := .resp })

/-- The pause (R193): `d_req` is 1 and `d_us` is `POLL_DELAY_US`, at least 1; when the delay is done `Dly(P)` is
emitted, `r.k` is 0 and the next polling frame starts; until then nothing changes. `cmd_ready` is 0, and chip-select
is inactive where it follows the state (R45). -/
def Obligations.PauseRunsDelay : Prop :=
  ∀ (i : Instr) (s : State), s.st = .pause →
    (outputs s).dReq = true ∧ (outputs s).dUs = pollDelayUs ∧ 1 ≤ pollDelayUs ∧ (outputs s).cmdReady = false ∧
    (CsInv s → (outputs s).csActive = false) ∧
    exec i s = .next (if s.inp.dDone then
      { s with k := 0, st := .assert, trace := s.trace ++ [.dly pollDelayUs] } else s)

/-- R129: in RESP `rsp_valid` is 1 and `rsp_code` is `r.code`; taking the response emits `Rsp(code)` and goes to IDLE;
without `rsp_ready` nothing changes; chip-select is inactive where it follows the state (R45). -/
def Obligations.ResponseReturnsToIdle : Prop :=
  ∀ (i : Instr) (s : State), s.st = .resp →
    (outputs s).rspValid = true ∧ (outputs s).rspCode = s.code ∧ (CsInv s → (outputs s).csActive = false) ∧
    exec i s = .next (if s.inp.rspReady then { s with st := .idle, trace := s.trace ++ [.rsp s.code] } else s)

/-- Reset, in any state and under any other port value, emits `Rst`, leaves IDLE with chip-select inactive (R240) and
takes no command presented with it (R120); the controller is then ready for a command; a device without an open frame
is not touched (R242). -/
def Obligations.ResetTakesPrecedence : Prop :=
  ∀ s : State, s.inp.rst = true →
    ∃ t, step s = .next t ∧ t.st = .idle ∧ t.cs = false ∧ t.trace = s.trace ++ [.rst] ∧
      (outputs t).cmdReady = true ∧ (s.cs = false → t.dev = (deviceStep s).dev)

/-- What reset leaves at the start (R44): IDLE, chip-select inactive, and the outputs that follow. -/
def Obligations.ResetStateOutputs : Prop :=
  State.reset.st = .idle ∧ State.reset.cs = false ∧
  (outputs State.reset).cmdReady = true ∧ (outputs State.reset).wdReady = false ∧
  (outputs State.reset).rdValid = false ∧ (outputs State.reset).rspValid = false ∧
  (outputs State.reset).xReq = false ∧ (outputs State.reset).dReq = false ∧
  (outputs State.reset).csActive = false

/-! ## Whole commands, from IDLE to IDLE (41 to 44, 60_exceptions.md R212, R213) -/

/-- ENABLE_WRITE and DISABLE_WRITE run to OK: one frame of one byte, 0x06 or 0x04 (R140, R141). -/
def Obligations.WriteEnableCommandsRun : Prop :=
  ∀ (a : Addr) (n : Len) (d r : Byte) (x₀ x₁ x₂ x₃ x₄ : Inputs) (s : State), s.st = .idle →
    (∃ t, execRun (.enableWrite a n d) [x₀, x₁, x₂.ack r, x₃, x₄.takeRsp] s = .next t ∧ t.st = .idle ∧ t.cs = false ∧
      t.trace = s.trace ++ [.cmd 0x1 a n d, .csOn, .xc 0x06 r, .csOff, .rsp 0]) ∧
    (∃ t, execRun (.disableWrite a n d) [x₀, x₁, x₂.ack r, x₃, x₄.takeRsp] s = .next t ∧ t.st = .idle ∧ t.cs = false ∧
      t.trace = s.trace ++ [.cmd 0x2 a n d, .csOn, .xc 0x04 r, .csOff, .rsp 0])

/-- READ_STATUS delivers the second received byte, whatever it is, and runs to OK (R150). -/
def Obligations.ReadStatusDeliversStatus : Prop :=
  ∀ (a : Addr) (n : Len) (d r v : Byte) (x₀ x₁ x₂ x₃ x₄ x₅ x₆ : Inputs) (s : State), s.st = .idle →
    ∃ t, execRun (.readStatus a n d) [x₀, x₁, x₂.ack r, x₃.ack v, x₄.takeRd, x₅, x₆.takeRsp] s = .next t ∧
      t.st = .idle ∧ t.cs = false ∧
      t.trace = s.trace ++
        [.cmd 0x3 a n d, .csOn, .xc 0x05 r, .xc Config.dummyByte v, .rd v, .csOff, .rsp 0]

/-- WRITE_STATUS sends the value verbatim and runs to OK (R151). -/
def Obligations.WriteStatusSendsValue : Prop :=
  ∀ (a : Addr) (n : Len) (v r q : Byte) (x₀ x₁ x₂ x₃ x₄ x₅ : Inputs) (s : State), s.st = .idle →
    ∃ t, execRun (.writeStatus a n v) [x₀, x₁, x₂.ack r, x₃.ack q, x₄, x₅.takeRsp] s = .next t ∧
      t.st = .idle ∧ t.cs = false ∧
      t.trace = s.trace ++ [.cmd 0x4 a n v, .csOn, .xc 0x01 r, .xc v q, .csOff, .rsp 0]

/-- READ_BYTE sends `03 hi lo D`, delivers the fourth received byte and runs to OK (R170). -/
def Obligations.ReadByteDeliversByte : Prop :=
  ∀ (a : Addr) (n : Len) (d r₀ r₁ r₂ v : Byte) (x₀ x₁ x₂ x₃ x₄ x₅ x₆ x₇ x₈ : Inputs) (s : State), s.st = .idle →
    ∃ t, execRun (.readByte a n d)
        [x₀, x₁, x₂.ack r₀, x₃.ack r₁, x₄.ack r₂, x₅.ack v, x₆.takeRd, x₇, x₈.takeRsp] s = .next t ∧
      t.st = .idle ∧ t.cs = false ∧
      t.trace = s.trace ++ [.cmd 0x5 a n d, .csOn, .xc 0x03 r₀, .xc (addrHi a) r₁, .xc (addrLo a) r₂,
        .xc Config.dummyByte v, .rd v, .csOff, .rsp 0]

/-- WRITE_BYTE sends `02 hi lo v` and runs to OK (R171). -/
def Obligations.WriteByteSendsByte : Prop :=
  ∀ (a : Addr) (n : Len) (v r₀ r₁ r₂ r₃ : Byte) (x₀ x₁ x₂ x₃ x₄ x₅ x₆ x₇ : Inputs) (s : State), s.st = .idle →
    ∃ t, execRun (.writeByte a n v)
        [x₀, x₁, x₂.ack r₀, x₃.ack r₁, x₄.ack r₂, x₅.ack r₃, x₆, x₇.takeRsp] s = .next t ∧
      t.st = .idle ∧ t.cs = false ∧
      t.trace = s.trace ++ [.cmd 0x6 a n v, .csOn, .xc 0x02 r₀, .xc (addrHi a) r₁, .xc (addrLo a) r₂, .xc v r₃,
        .csOff, .rsp 0]

/-- READ_RANGE of any length `N`, 0 to 65535, sends `03 hi lo` and `N` dummy bytes in one frame, delivers the `N`
received bytes in order, each before the next exchange, and runs to OK (R172). -/
def Obligations.ReadRangeDeliversBytes : Prop :=
  ∀ (a : Addr) (d r₀ r₁ r₂ : Byte) (x₀ x₁ x₂ x₃ x₄ y z : Inputs) (beats : List (Byte × Inputs × Inputs)) (s : State),
    s.st = .idle → beats.length ≤ 65535 →
    ∃ t, execRun (.readRange a (BitVec.ofNat 16 beats.length) d)
        ([x₀, x₁, x₂.ack r₀, x₃.ack r₁, x₄.ack r₂]
          ++ beats.flatMap (fun b => [b.2.1.ack b.1, b.2.2.takeRd]) ++ [y, z.takeRsp]) s = .next t ∧
      t.st = .idle ∧ t.cs = false ∧
      t.trace = s.trace
        ++ [.cmd 0x7 a (BitVec.ofNat 16 beats.length) d, .csOn, .xc 0x03 r₀, .xc (addrHi a) r₁, .xc (addrLo a) r₂]
        ++ beats.flatMap (fun b => [.xc Config.dummyByte b.1, .rd b.1]) ++ [.csOff, .rsp 0]

/-- WRITE_RANGE of any length `N`, 0 to 65535, sends `02 hi lo` and the `N` bytes the host offers, in order, in one
frame, taking each just before its exchange, and runs to OK (R173). A beat is (byte offered, byte received). -/
def Obligations.WriteRangeSendsBytes : Prop :=
  ∀ (a : Addr) (d r₀ r₁ r₂ : Byte) (x₀ x₁ x₂ x₃ x₄ y z : Inputs)
    (beats : List (Byte × Byte × Inputs × Inputs)) (s : State),
    s.st = .idle → beats.length ≤ 65535 →
    ∃ t, execRun (.writeRange a (BitVec.ofNat 16 beats.length) d)
        ([x₀, x₁, x₂.ack r₀, x₃.ack r₁, x₄.ack r₂]
          ++ beats.flatMap (fun b => [b.2.2.1.offerWd b.1, b.2.2.2.ack b.2.1]) ++ [y, z.takeRsp]) s = .next t ∧
      t.st = .idle ∧ t.cs = false ∧
      t.trace = s.trace
        ++ [.cmd 0x8 a (BitVec.ofNat 16 beats.length) d, .csOn, .xc 0x02 r₀, .xc (addrHi a) r₁, .xc (addrLo a) r₂]
        ++ beats.flatMap (fun b => [.wd b.1, .xc b.1 b.2.1]) ++ [.csOff, .rsp 0]

/-- WAIT_WRITE_COMPLETE: for every list of polls whose status byte has bit 0 set, and one last poll whose status byte
has it clear, one frame per poll with the delay after each busy one, nothing delivered, then OK (R190, R196), whatever
the other ports do in each step of each poll. -/
def Obligations.WaitPollsUntilReady : Prop :=
  ∀ (a : Addr) (n : Len) (d : Byte) (x : Inputs) (polls : List Poll) (last : Poll) (s : State),
    s.st = .idle → (∀ p ∈ polls, p.status.getLsbD 0 = true) → last.status.getLsbD 0 = false →
    ∃ t, execRun (.waitWriteComplete a n d)
        ([x] ++ polls.flatMap Poll.busy ++ last.frame ++ [last.atEnd.takeRsp]) s = .next t ∧
      t.st = .idle ∧ t.cs = false ∧
      t.trace = s.trace ++ [.cmd 0x9 a n d] ++ polls.flatMap (fun p => p.events ++ [.dly pollDelayUs])
        ++ last.events ++ [.rsp 0]

/-- The wait has no cap: while every polled status byte has bit 0 set, however many polls, the command is still about
to poll again, has given no response and accepts no command (R194, R214), whatever the other ports do in each step of
each poll. -/
def Obligations.WaitHasNoCap : Prop :=
  ∀ (a : Addr) (n : Len) (d : Byte) (x : Inputs) (polls : List Poll) (s : State),
    s.st = .idle → (∀ p ∈ polls, p.status.getLsbD 0 = true) →
    ∃ t, execRun (.waitWriteComplete a n d) ([x] ++ polls.flatMap Poll.busy) s = .next t ∧
      t.st = .assert ∧ t.op = 0x9 ∧ (outputs t).cmdReady = false ∧ (outputs t).rspValid = false ∧
      t.trace = s.trace ++ [.cmd 0x9 a n d] ++ polls.flatMap (fun p => p.events ++ [.dly pollDelayUs])

/-- The endless wait is a run of the machine (R190, R194, R214): a WAIT_WRITE_COMPLETE on the ports of an IDLE
controller, after which the ports repeat for ever any polls that all read busy, with no reset. Then the machine polls
for ever: the run of any number of steps answers a next state, in which, from the first step on, no command is
accepted and no response is given, and each round of the polls adds its frames and delays. That the ports repeat is
named by the model (log 1). -/
def Obligations.WaitPollsForever : Prop :=
  ∀ (polls : List Poll) (s : State),
    s.st = .idle → s.inp.rst = false → s.inp.cmdValid = true → s.inp.cmdOp = 0x9 → polls ≠ [] →
    (∀ p ∈ polls, p.status.getLsbD 0 = true ∧ ∀ x ∈ p.busy, x.rst = false) →
    s.script = polls.flatMap Poll.busy → s.later = .repeats (polls.flatMap Poll.busy) →
    (∀ n, ∃ t, core.run (n + 1) s = .next t ∧ (outputs t).cmdReady = false ∧ (outputs t).rspValid = false) ∧
    (∀ j, ∃ t, core.run (1 + j * (polls.flatMap Poll.busy).length) s = .next t ∧ t.st = .assert ∧
      t.trace = s.trace ++ [.cmd 0x9 s.inp.cmdAddr s.inp.cmdLen s.inp.cmdData]
        ++ (List.replicate j (polls.flatMap (fun p => p.events ++ [.dly pollDelayUs]))).flatten)

/-- Each of the seven illegal op codes is accepted, answered with ILLEGAL_OP in the next step, and drives neither
chip-select nor the device (R95, R213). -/
def Obligations.IllegalOpsAnswered : Prop :=
  ∀ (a : Addr) (n : Len) (d : Byte) (x₀ x₁ : Inputs) (s : State), s.st = .idle →
    ∀ i ∈ [Instr.illegal0 a n d, .illegalA a n d, .illegalB a n d, .illegalC a n d, .illegalD a n d, .illegalE a n d,
        .illegalF a n d],
      ∃ t, execRun i [x₀, x₁.takeRsp] s = .next t ∧ t.st = .idle ∧ t.cs = s.cs ∧ t.dev = s.dev ∧
        t.trace = s.trace ++ [.cmd i.op a n d, .rsp 2]

/-- A failed exchange of any legal command, at any position, is followed by `CsOff` and `Rsp(TRANSPORT_FAULT)` and
nothing else; the controller is then IDLE (R127, R198, R212, R218). -/
def Obligations.FaultReachesHost : Prop :=
  ∀ (i : Instr) (c : Command) (x₀ x₁ x₂ : Inputs) (s : State), Command.ofOp i.op = some c → s.st = .xchg →
    ∃ t, execRun i [x₀.nack, x₁, x₂.takeRsp] s = .next t ∧ t.st = .idle ∧ t.cs = false ∧
      t.trace = s.trace ++ [.xcFault (txByte c s.k s.addr s.cdata s.wbuf), .csOff, .rsp 1]

/-! ## Invariants -/

/-- The invariants below hold at reset. -/
def Obligations.ResetMeetsInvariants : Prop :=
  CsInv State.reset ∧ PosInv State.reset ∧ TraceInv State.reset ∧ DeviceInv Config.device State.reset.dev

/-- R45: chip-select is active exactly in FETCH, XCHG, DELIVER and DEASSERT: at reset, after every step that began so,
and so in every state that a run from reset reaches, whatever the ports do in it. -/
def Obligations.ChipSelectFollowsState : Prop :=
  CsInv State.reset ∧ (∀ s t : State, CsInv s → step s = .next t → CsInv t) ∧
  (∀ (n : Nat) (x : Inputs) (xs : List Inputs) (l : Later) (t : State),
    core.run n { State.reset with inp := x, script := xs, later := l } = .next t → CsInv t)

/-- Every step keeps the frame position in range, the op legal inside a frame, the fault flag for a cut frame only,
and the response code off its reserved value (R25, R104, R127, R211). -/
def Obligations.FramePositionStaysInRange : Prop :=
  ∀ s t : State, PosInv s → step s = .next t → PosInv t

/-- From a state whose position is in range every step answers a next state: no run stops in a fault (R95, R210). The
one fault of the model is for a state no run reaches (log 19). -/
def Obligations.StepsNeverStop : Prop := ∀ s : State, PosInv s → ∃ t, step s = .next t

/-- Every step keeps the trace in order: one frame per command (one per poll of the wait), every exchange and data
beat inside a frame, a frame closed after exactly FrameLen exchanges or right after a failed one, one response per
command, no command accepted before it (R130 to R134, R195, R198, R213). -/
def Obligations.TraceStaysInOrder : Prop :=
  ∀ s t : State, PosInv s → TraceInv s → step s = .next t → TraceInv t

/-- Every step keeps the device's data in form: the array canonical and inside MEM_SIZE, the page buffer and the
pending write inside one page (R66, R67). The canonical form and the bound of an array of any value are the model's
(log 13, 27). -/
def Obligations.DeviceDataStaysInForm : Prop :=
  ∀ s t : State, DeviceInv Config.device s.dev → step s = .next t → DeviceInv Config.device t.dev

/-- R46: no command reads a register value left by an earlier one. Two machines at IDLE that agree on the ports, the
device, chip-select, the trace and the free values, and differ in any of the other registers, emit the same events in
every run of any number of steps. A register value after a reset step is a free value (log 7), the same in both. -/
def Obligations.CommandsAreStateless : Prop :=
  ∀ (n : Nat) (s u t : State), s.st = .idle →
    u = { s with op := u.op, addr := u.addr, len := u.len, cdata := u.cdata, k := u.k, wbuf := u.wbuf, rbuf := u.rbuf,
                 sr := u.sr, fault := u.fault, code := u.code } →
    core.run n s = .next t →
    ∃ v, core.run n u = .next v ∧ v.trace = t.trace ∧ v.st = t.st ∧ v.cs = t.cs ∧ v.dev = t.dev

/-- While a command runs, what is on the command ports changes nothing: no second command is accepted before the first
has responded (R132). -/
def Obligations.CommandPortsIgnoredWhileBusy : Prop :=
  ∀ (s : State) (b : Bool) (o : OpCode) (a : Addr) (n : Len) (d : Byte), s.st ≠ .idle →
    (outputs s).cmdReady = false ∧
    step { s with inp := { s.inp with cmdValid := b, cmdOp := o, cmdAddr := a, cmdLen := n, cmdData := d } } = step s

/-- An exchange that the transport never completes is a hold for ever: through any number of steps nothing is emitted,
the position stays, and chip-select stays as it is (R135, R215, R229). A hold is a step here that changes no register
(log 2). -/
def Obligations.HeldExchangeHoldsForever : Prop :=
  ∀ (n : Nat) (s : State), s.st = .xchg → (∃ c, Command.ofOp s.op = some c) →
    (∀ x ∈ s.inp :: s.script, x.rst = false ∧ x.xAck = false) →
    (∀ m, ∀ x ∈ s.later.refill m, x.rst = false ∧ x.xAck = false) →
    ∃ t, core.run n s = .next t ∧ t.st = .xchg ∧ t.k = s.k ∧ t.cs = s.cs ∧ t.trace = s.trace

/-- What a step of a command leaves alone, for every command and every state. The latched fields change at acceptance
only; each buffer, the fault flag, the response code and chip-select only in the states that write them (R21 to R31);
no byte of the array changes except where a frame that a fault cut, that began while the device was busy, or that the
contract gives no effect comes to its end (R57, R70, R212); the ports and the draw counter never. That those effects
come at the end of the frame is the model's choice (log 15), and so is that the latch changes there (log 34). That an
internal write starts there too is general knowledge (R61, log 21), and that a frame counts as begun while busy by the
moment of `CsOn` is read from the contract (log 20). -/
def Obligations.CommandStepFrame : Prop :=
  ∀ (i : Instr) (s t : State), exec i s = .next t →
    (s.st ≠ .idle → t.op = s.op ∧ t.addr = s.addr ∧ t.len = s.len ∧ t.cdata = s.cdata) ∧
    (s.st = .assert ∨ s.st = .fetch ∨ s.st = .deassert ∨ s.st = .resp → t.k = s.k) ∧
    (s.st ≠ .fetch → t.wbuf = s.wbuf) ∧
    (s.st ≠ .xchg → t.rbuf = s.rbuf ∧ t.sr = s.sr) ∧
    (s.st ≠ .xchg → s.st ≠ .idle → t.fault = s.fault) ∧
    (s.st ≠ .idle → s.st ≠ .deassert → t.code = s.code) ∧
    (s.st ≠ .assert → s.st ≠ .deassert → t.cs = s.cs) ∧
    (s.st ≠ .assert → s.st ≠ .xchg → s.st ≠ .deassert → t.dev = s.dev) ∧
    (s.st ≠ .deassert →
      t.dev.wel = s.dev.wel ∧ t.dev.pending = s.dev.pending ∧ t.dev.bp = s.dev.bp ∧ t.dev.wpen = s.dev.wpen ∧
      t.dev.res = s.dev.res ∧ t.dev.mem = s.dev.mem) ∧
    ((∀ f, s.dev.frame = some f → f.cut = false ∧ (f.late = false ∨ f.opcode = some 0x05#8 ∧ f.count = 1) ∧
        ((f.opcode = some 0x06#8 ∨ f.opcode = some 0x04#8) ∧ f.count = 0 ∨
          (f.opcode = some 0x05#8 ∨ f.opcode = some 0x01#8) ∧ f.count = 1 ∨
          (f.opcode = some 0x03#8 ∨ f.opcode = some 0x02#8) ∧ 2 ≤ f.count)) →
      ∀ a, Memory.read Config.device t.dev.mem a = Memory.read Config.device s.dev.mem a) ∧
    t.inp = s.inp ∧ t.script = s.script ∧ t.later = s.later ∧ t.draws = s.draws

/-! ## The device contract (20_memory.md R60 to R79) -/

/-- Block protection (R72): level 0 protects nothing, level 3 the whole array, the ranges increase with the level, and
levels 1 and 2 protect a quarter and a half of the addresses of the array. The parameter obeys these laws by its form
(log 10). -/
def Obligations.ProtectionIsMonotone : Prop :=
  ∀ (P : DevParams) (a : Nat), prot P 0 a = false ∧ (a < memSize P → prot P 3 a = true) ∧
    (∀ b b' : BitVec 2, b ≤ b' → prot P b a = true → prot P b' a = true) ∧
    (List.range (memSize P)).countP (prot P 1) = memSize P / 4 ∧
    (List.range (memSize P)).countP (prot P 2) = memSize P / 2

/-- A read-status frame answers the status register, bit by bit, also while the device is busy, and changes nothing
(R57, R65). That the reserved bits are a stored variable is read from R60 and R65 (log 32). -/
def Obligations.StatusReadAlsoWhileBusy : Prop :=
  ∀ (P : DevParams) (n : Nat) (d : Device) (x : Byte),
    statusDecode (deviceReply P n [0x05#8] d) = { rdy := deviceBusy d, wen := d.wel, bp := d.bp, wpen := d.wpen } ∧
    statusRes (deviceReply P n [0x05#8] d) = d.res ∧
    deviceFrame P n [0x05#8, x] d = { d with frame := none }

/-- On a device that is not busy an enable-write frame sets the latch and a disable-write frame clears it, and nothing
else changes (R62, R64). R64 is marked in the spec as general knowledge (log 21). -/
def Obligations.LatchFrames : Prop :=
  ∀ (P : DevParams) (n : Nat) (d : Device), deviceBusy d = false →
    deviceFrame P n [0x06#8] d = { d with wel := true, frame := none } ∧
    deviceFrame P n [0x04#8] d = { d with wel := false, frame := none }

/-- A write-status frame on a device that is not busy: with the latch set (or not required) it starts an internal
write, which on completion gives every status bit under SR_WRITABLE_MASK the bit of the value, keeps BP, WPEN and the
reserved bits outside the mask, clears busy and the latch, and touches no byte of the array; otherwise it changes
nothing (R69). That the write starts at the end of the frame is marked in R61 as general knowledge (log 21), and the
reserved bits are a stored variable (log 32). No write-protect pin blocks the write, a premise by R73 (log 28). -/
def Obligations.WriteStatusFrame : Prop :=
  ∀ (P : DevParams) (n m : Nat) (d : Device) (v : Byte), deviceBusy d = false →
    (d.wel = true ∨ P.requiresWel = false →
      deviceBusy (deviceFrame P n [0x01#8, v] d) = true ∧
      (let e := deviceComplete P m (deviceFrame P n [0x01#8, v] d)
       deviceBusy e = false ∧ e.wel = false ∧ e.mem = d.mem ∧
       (∀ j, 2 ≤ j → j < 8 → (deviceStatus e).getLsbD j =
          if P.srMask.getLsbD j then v.getLsbD j else (deviceStatus d).getLsbD j))) ∧
    (d.wel = false → P.requiresWel = true → deviceFrame P n [0x01#8, v] d = { d with frame := none })

/-- A read-data frame on a device that is not busy answers, after the address and `i` data bytes, the byte of the
array at `A + i` wherever that is below MEM_SIZE, and leaves the device as it was (R57, R66, R75). -/
def Obligations.ReadDataFrame : Prop :=
  ∀ (P : DevParams) (n : Nat) (d : Device) (a : Addr) (xs : List Byte), deviceBusy d = false →
    (a.toNat % memSize P + xs.length < memSize P →
      deviceReply P n ([0x03#8, addrHi a, addrLo a] ++ xs) d =
        Memory.read P d.mem (a.toNat % memSize P + xs.length)) ∧
    deviceFrame P n ([0x03#8, addrHi a, addrLo a] ++ xs) d = { d with frame := none }

/-- A write-data frame of at least one byte on a device that is not busy, with the latch set (or not required), and
the completion of its internal write: every address of the page takes the last byte sent to its offset, the pointer
wrapping inside the page, unless it is protected; every other address keeps its byte; busy and the latch are clear
(R67). Where the pointer wraps to, and which byte stays, are marked in R67 as general knowledge (log 21). No
write-protect pin blocks the write, a premise by R73 (log 28). -/
def Obligations.WriteDataFrame : Prop :=
  ∀ (P : DevParams) (n m : Nat) (d : Device) (a : Addr) (bytes : List Byte),
    deviceBusy d = false → cellsRising d.mem → bytes ≠ [] → d.wel = true ∨ P.requiresWel = false →
    let A := a.toNat % memSize P
    let f := deviceFrame P n ([0x02#8, addrHi a, addrLo a] ++ bytes) d
    let e := deviceComplete P m f
    deviceBusy f = true ∧ f.mem = d.mem ∧ deviceBusy e = false ∧ e.wel = false ∧
    (∀ x, Memory.read P e.mem x =
      match (List.range bytes.length).reverse.find?
          (fun i => A - A % pageSize P + (A + i) % pageSize P == x) with
      | some i => if prot P d.bp x then Memory.read P d.mem x else bytes.getD i 0
      | none => Memory.read P d.mem x)

/-- A write-data frame with data, without the latch on a device that requires it, changes nothing and starts no
internal write (R68). One with no data byte leaves every device variable but the latch and busy (R68), whether or not
the latch was set, a reading of R68 (log 16). R68 says nothing of a write behind that busy or of its completion: that
it is one of no bytes, whose completion clears busy and may clear the latch and changes nothing else, is the model's
choice (log 14). -/
def Obligations.WriteDataWithoutEffect : Prop :=
  ∀ (P : DevParams) (n : Nat) (d : Device) (a : Addr) (bytes : List Byte), deviceBusy d = false →
    (bytes ≠ [] → d.wel = false → P.requiresWel = true →
      deviceFrame P n ([0x02#8, addrHi a, addrLo a] ++ bytes) d = { d with frame := none }) ∧
    (let f := deviceFrame P n [0x02#8, addrHi a, addrLo a] d
     f = { d with wel := f.wel, pending := f.pending, frame := none } ∧
     (f.pending = none ∨ f.pending = some (.data 0 [])) ∧
     (∀ m, deviceComplete P m f = { d with wel := (deviceComplete P m f).wel, pending := none, frame := none }))

/-- A device reset clears the latch and keeps the array (R63, R79): every byte of it, but for those that a data write
in progress was about to write, or where nothing is known of the write in progress, which is the model's choice (log
17). A second reset keeps the array that the first one left, since the model takes the write behind a device that is
busy after a reset as one of no bytes (log 14). -/
def Obligations.DeviceResetKeepsArray : Prop :=
  ∀ (P : DevParams) (n m : Nat) (d : Device),
    (deviceReset P n d).wel = false ∧
    (d.pending = none ∨ (∃ v, d.pending = some (.status v)) → (deviceReset P n d).mem = d.mem) ∧
    (∀ page buf, d.pending = some (.data page buf) → ∀ x, (∀ c ∈ buf, x ≠ page + c.1) →
      Memory.read P (deviceReset P n d).mem x = Memory.read P d.mem x) ∧
    (deviceReset P m (deviceReset P n d)).mem = (deviceReset P n d).mem

/-- The range round trip of R78 on the device: enable-write, write-data of `bytes` inside one page at unprotected
addresses, completion, and a read-data frame from the same address answers the bytes, in order. It rests on the start
of the write at the end of the frame (log 21). No write-protect pin blocks the write, a premise by R73 (log 28). -/
def Obligations.RangeRoundTrip : Prop :=
  ∀ (P : DevParams) (n : Nat) (d : Device) (a : Addr) (bytes xs : List Byte),
    deviceBusy d = false → cellsRising d.mem → pageSafe P a.toNat bytes.length → xs.length < bytes.length →
    (∀ i, i < bytes.length → prot P d.bp (a.toNat % memSize P + i) = false) →
    deviceReply P n ([0x03#8, addrHi a, addrLo a] ++ xs)
      (deviceComplete P n (deviceFrame P n ([0x02#8, addrHi a, addrLo a] ++ bytes) (deviceFrame P n [0x06#8] d))) =
      bytes.getD xs.length 0

/-- The byte round trip of R77 through the controller, on a device that follows the contract: ENABLE_WRITE,
`WRITE_BYTE a, v`, WAIT_WRITE_COMPLETE with any number of busy polls, `READ_BYTE a` delivers `v`, and all four
commands respond OK. The ports of the run are named by the model (log 1, 11, 12), and the device contract is a premise
with log 21. No write-protect pin blocks the write, a premise by R73 (log 28). -/
def Obligations.ByteRoundTrip : Prop :=
  ∀ (j : Nat) (a : Addr) (v : Byte) (s : State) (rest : List Inputs),
    s.st = .idle → deviceBusy s.dev = false → cellsRising s.dev.mem →
    prot Config.device s.dev.bp (a.toNat % memSize Config.device) = false →
    s.inp :: s.script = byteRoundTripInputs j a v ++ rest →
    ∃ t l, core.run (byteRoundTripInputs j a v).length s = .next t ∧ t.st = .idle ∧
      t.trace = s.trace ++ l ++ [.rd v, .csOff, .rsp 0] ∧
      l.filter (fun e => match e with | .rd _ => true | .rsp _ => true | _ => false) = [.rsp 0, .rsp 0, .rsp 0]

/-! ## Status decoding and the host's side (42_status.md, 30_encoding.md R111, 70_reset) -/

/-- R156: the full decode of a status byte, and the source's worked example. -/
def Obligations.StatusDecodeExample : Prop :=
  (∀ s : Byte, statusDecode s =
    { rdy := s.getLsbD 0, wen := s.getLsbD 1, bp := s.extractLsb' 2 2, wpen := s.getLsbD 7 }) ∧
  statusDecode 0b10000101#8 = { rdy := true, wen := false, bp := 1, wpen := true } ∧
  bpName (statusDecode 0b10000101#8).bp = .quarter

/-- The reserved bits do not matter to the decode (R155), and a value built from BP and WPEN decodes to them, is clear
elsewhere, and is safe to send (R157, R256). -/
def Obligations.StatusValueDecodes : Prop :=
  (∀ s r : Byte, s &&& 0x8F#8 = r &&& 0x8F#8 → statusDecode s = statusDecode r) ∧
  (∀ (bp : BitVec 2) (wpen : Bool),
    statusDecode (statusValue bp wpen) = { rdy := false, wen := false, bp := bp, wpen := wpen } ∧
    statusSafe (statusValue bp wpen))

/-- The chunks of WRITE_PAGED hold the bytes in order, each starts where the one before it ended, and none crosses a
page boundary (R111, R253). -/
def Obligations.PagedChunksStayInPages : Prop :=
  ∀ (P : DevParams) (a : Nat) (bytes : List Byte),
    let chunks := pagedChunks (pageSize P) bytes.length a bytes
    (chunks.map Prod.snd).flatten = bytes ∧
    (∀ c ∈ chunks, c.2 ≠ [] ∧ pageSafe P c.1 c.2.length) ∧
    (∀ pre c post, chunks = pre ++ c :: post → c.1 = a + ((pre.map Prod.snd).flatten).length)

/-- The words of WRITE_PAGED keep the host's duties of R250 and R251: every write follows an ENABLE_WRITE and is
followed by a WAIT_WRITE_COMPLETE; each chunk is one WRITE_RANGE word with its start address and its length, and its
bytes are that line's write-data stream, of the length the word says (R110, R111; an address past 0xFFFF is the
model's choice, log 29). -/
def Obligations.PagedWriteIsDisciplined : Prop :=
  ∀ (P : DevParams) (a : Addr) (bytes : List Byte), bytes.length < 65536 →
    disciplined false false ((writePaged P a bytes).map (fun l => decodeWord (asmWord l))) = true ∧
    AsmLine.programWf (writePaged P a bytes) = true ∧
    (writePaged P a bytes).map (fun l => (decodeWord (asmWord l), asmStream l)) =
      (pagedChunks (pageSize P) bytes.length a.toNat bytes).flatMap (fun c =>
        [(.enableWrite 0 0 0, []), (.writeRange (BitVec.ofNat 16 c.1) (BitVec.ofNat 16 c.2.length) 0, c.2),
         (.waitWriteComplete 0 0 0, [])]) ∧
    ((writePaged P a bytes).map asmStream).flatten = bytes
end

