-- ==== Sys2Proof/Laws/Memory.lean ====
section
/-! SUPPORT. The laws of the array and of the page buffer: what a read finds after a write, and that every operation
keeps the canonical form. -/

namespace Sys2Proof.Machine

theorem cellsGet_eq_none {m : List Host.Cell} {a : Nat} (h : ∀ c ∈ m, a < c.1) : cellsGet m a = none := by
  induction m with
  | nil => rfl
  | cons c t ih =>
    obtain ⟨x, v⟩ := c
    have hx : a < x := h (x, v) (by simp)
    have hne : x ≠ a := by omega
    simp only [cellsGet, hne, if_false]
    exact ih (fun d hd => h d (List.mem_cons_of_mem _ hd))

theorem cellsGet_put_same (m : List Host.Cell) (a : Nat) (b : Byte) : cellsGet (cellsPut m a b) a = some b := by
  induction m with
  | nil => simp [cellsPut, cellsGet]
  | cons c t ih =>
    obtain ⟨x, v⟩ := c
    simp only [cellsPut]
    split
    · simp [cellsGet]
    · split
      · simp [cellsGet]
      · rename_i h1 h2
        have : x ≠ a := fun h => h2 h.symm
        simp [cellsGet, this, ih]

theorem cellsGet_put_other {m : List Host.Cell} {a x : Nat} (b : Byte) (h : x ≠ a) :
    cellsGet (cellsPut m a b) x = cellsGet m x := by
  have h' : a ≠ x := fun e => h e.symm
  induction m with
  | nil => simp [cellsPut, cellsGet, h']
  | cons c t ih =>
    obtain ⟨y, v⟩ := c
    simp only [cellsPut]
    split
    · simp [cellsGet, h']
    · split
      · rename_i h1 h2
        subst h2
        simp [cellsGet, h']
      · simp [cellsGet, ih]

theorem cellsGet_drop_same {m : List Host.Cell} (a : Nat) (hm : cellsRising m) : cellsGet (cellsDrop m a) a = none := by
  induction m with
  | nil => rfl
  | cons c t ih =>
    obtain ⟨x, v⟩ := c
    have ht := List.pairwise_cons.1 hm
    simp only [cellsDrop]
    split
    · rename_i h1
      exact cellsGet_eq_none (by
        intro d hd
        rcases List.mem_cons.1 hd with rfl | hd
        · exact h1
        · exact Nat.lt_trans h1 (ht.1 d hd))
    · split
      · rename_i h1 h2
        subst h2
        exact cellsGet_eq_none (fun d hd => ht.1 d hd)
      · rename_i h1 h2
        have : x ≠ a := fun h => h2 h.symm
        simp [cellsGet, this, ih ht.2]

theorem cellsGet_drop_other {m : List Host.Cell} {a x : Nat} (h : x ≠ a) :
    cellsGet (cellsDrop m a) x = cellsGet m x := by
  have h' : a ≠ x := fun e => h e.symm
  induction m with
  | nil => rfl
  | cons c t ih =>
    obtain ⟨y, v⟩ := c
    simp only [cellsDrop]
    split
    · rfl
    · split
      · rename_i h1 h2
        subst h2
        simp [cellsGet, h']
      · simp [cellsGet, ih]

theorem mem_cellsPut {m : List Host.Cell} {a : Nat} {b : Byte} {c : Host.Cell} (h : c ∈ cellsPut m a b) :
    c = (a, b) ∨ c ∈ m := by
  induction m with
  | nil => simp [cellsPut] at h; exact .inl h
  | cons d t ih =>
    obtain ⟨x, v⟩ := d
    simp only [cellsPut] at h
    split at h
    · rcases List.mem_cons.1 h with h | h
      · exact .inl h
      · exact .inr h
    · split at h
      · rcases List.mem_cons.1 h with h | h
        · exact .inl h
        · exact .inr (List.mem_cons_of_mem _ h)
      · rcases List.mem_cons.1 h with h | h
        · exact .inr (h ▸ List.mem_cons_self)
        · rcases ih h with h | h
          · exact .inl h
          · exact .inr (List.mem_cons_of_mem _ h)

theorem mem_cellsDrop {m : List Host.Cell} {a : Nat} {c : Host.Cell} (h : c ∈ cellsDrop m a) : c ∈ m := by
  induction m with
  | nil => simp [cellsDrop] at h
  | cons d t ih =>
    obtain ⟨x, v⟩ := d
    simp only [cellsDrop] at h
    split at h
    · exact h
    · split at h
      · exact List.mem_cons_of_mem _ h
      · rcases List.mem_cons.1 h with h | h
        · exact h ▸ List.mem_cons_self
        · exact List.mem_cons_of_mem _ (ih h)

theorem cellsPut_rising {m : List Host.Cell} (a : Nat) (b : Byte) (h : cellsRising m) : cellsRising (cellsPut m a b) := by
  induction m with
  | nil => simp [cellsPut, cellsRising]
  | cons d t ih =>
    obtain ⟨x, v⟩ := d
    have ht := List.pairwise_cons.1 h
    simp only [cellsPut]
    split
    · rename_i h1
      refine List.pairwise_cons.2 ⟨fun c hc => ?_, h⟩
      rcases List.mem_cons.1 hc with rfl | hc
      · exact h1
      · exact Nat.lt_trans h1 (ht.1 c hc)
    · split
      · rename_i h1 h2
        subst h2
        exact List.pairwise_cons.2 ⟨fun c hc => ht.1 c hc, ht.2⟩
      · rename_i h1 h2
        refine List.pairwise_cons.2 ⟨fun c hc => ?_, ih ht.2⟩
        rcases mem_cellsPut hc with rfl | hc
        · show x < a
          omega
        · exact ht.1 c hc

theorem cellsDrop_rising {m : List Host.Cell} (a : Nat) (h : cellsRising m) : cellsRising (cellsDrop m a) := by
  induction m with
  | nil => simp [cellsDrop, cellsRising]
  | cons d t ih =>
    obtain ⟨x, v⟩ := d
    have ht := List.pairwise_cons.1 h
    simp only [cellsDrop]
    split
    · exact h
    · split
      · exact ht.2
      · exact List.pairwise_cons.2 ⟨fun c hc => ht.1 c (mem_cellsDrop hc), ih ht.2⟩

/-- After dropping `a`, no entry of a rising list is at `a`. -/
theorem cellsDrop_ne {m : List Host.Cell} {a : Nat} {c : Host.Cell} (h : cellsRising m) (hc : c ∈ cellsDrop m a) :
    c.1 ≠ a := by
  induction m with
  | nil => simp [cellsDrop] at hc
  | cons d t ih =>
    obtain ⟨x, v⟩ := d
    have ht := List.pairwise_cons.1 h
    simp only [cellsDrop] at hc
    split at hc
    · rename_i h1
      rcases List.mem_cons.1 hc with rfl | hc
      · exact (Nat.ne_of_gt h1)
      · have := ht.1 c hc; simp only at this; omega
    · split at hc
      · rename_i h1 h2
        have := ht.1 c hc; simp only at this; omega
      · rename_i h1 h2
        rcases List.mem_cons.1 hc with rfl | hc
        · exact fun e => h2 e.symm
        · exact ih ht.2 hc

/-- A read after a write to the same address gives the byte written. -/
theorem memory_read_write_same (P : DevParams) {m : Memory} (a : Nat) (b : Byte) (h : cellsRising m) :
    Memory.read P (Memory.write P m a b) a = b := by
  unfold Memory.read Memory.write
  split
  · rename_i hb
    rw [cellsGet_drop_same a h, hb]; rfl
  · rw [cellsGet_put_same]; rfl

/-- A write leaves every other address alone. -/
theorem memory_read_write_other (P : DevParams) {m : Memory} {a x : Nat} (b : Byte) (h : x ≠ a) :
    Memory.read P (Memory.write P m a b) x = Memory.read P m x := by
  unfold Memory.read Memory.write
  split
  · rw [cellsGet_drop_other h]
  · rw [cellsGet_put_other b h]

/-- A write keeps the canonical form. -/
theorem memory_write_wf (P : DevParams) {m : Memory} (a : Nat) (b : Byte) (h : Memory.wf P m) :
    Memory.wf P (Memory.write P m a b) := by
  unfold Memory.write
  split
  · exact ⟨cellsDrop_rising a h.1, fun c hc => h.2 c (mem_cellsDrop hc)⟩
  · rename_i hb
    refine ⟨cellsPut_rising a b h.1, fun c hc => ?_⟩
    rcases mem_cellsPut hc with rfl | hc
    · exact hb
    · exact h.2 c hc

/-- A write inside the array keeps every entry inside it. -/
theorem memory_write_inside (P : DevParams) {m : Memory} {a n : Nat} (b : Byte) (ha : a < n) (h : ∀ c ∈ m, c.1 < n) :
    ∀ c ∈ Memory.write P m a b, c.1 < n := by
  unfold Memory.write
  split
  · exact fun c hc => h c (mem_cellsDrop hc)
  · intro c hc
    rcases mem_cellsPut hc with rfl | hc
    · exact ha
    · exact h c hc

theorem mem_memory_ofFn {P : DevParams} {n : Nat} {f : Nat → Byte} {c : Host.Cell} (h : c ∈ Memory.ofFn P n f) :
    c.1 < n ∧ c.2 = f c.1 ∧ c.2 ≠ Memory.unlisted P c.1 := by
  simp only [Memory.ofFn, List.mem_filterMap, List.mem_range] at h
  obtain ⟨a, ha, h⟩ := h
  split at h
  · cases h
  · rename_i hne
    cases h
    exact ⟨ha, rfl, hne⟩

/-- An array given by a function is in canonical form. -/
theorem memory_ofFn_wf (P : DevParams) (n : Nat) (f : Nat → Byte) : Memory.wf P (Memory.ofFn P n f) := by
  refine ⟨?_, fun c hc => (mem_memory_ofFn hc).2.2⟩
  refine List.Pairwise.filterMap _ ?_ (List.pairwise_lt_range)
  intro a a' haa b hb b' hb'
  split at hb
  · cases hb
  · split at hb'
    · cases hb'
    · cases hb; cases hb'; exact haa

/-- Landing bytes keeps the canonical form of the array. -/
theorem landByte_wf (P : DevParams) (bp : BitVec 2) (page : Nat) {m : Memory} (c : Host.Cell) (h : Memory.wf P m) :
    Memory.wf P (landByte P bp page m c) := by
  unfold landByte
  split
  · exact h
  · exact memory_write_wf P _ _ h

end Sys2Proof.Machine
end

