-- ==== Sys2Proof/Laws/Device.lean ====
section
/-! SUPPORT. The laws of the device contract's pieces: the page divides the array, what the end of a frame can do, and
what a completed write can do. -/

namespace Sys2Proof.Machine

theorem pageSize_pos (P : DevParams) : 0 < pageSize P := Nat.two_pow_pos _

theorem memSize_pos (P : DevParams) : 0 < memSize P := Nat.two_pow_pos _

/-- `PAGE_SIZE` divides `MEM_SIZE` (R11). -/
theorem pageSize_dvd_memSize (P : DevParams) : pageSize P ∣ memSize P :=
  Nat.pow_dvd_pow 2 (Nat.min_le_right _ _)

/-- `MEM_SIZE` is at most 65536 (R11). -/
theorem memSize_le (P : DevParams) : memSize P ≤ 65536 :=
  Nat.pow_le_pow_right (n := 2) (by decide) (Nat.le_of_lt_succ P.memLog.isLt)

/-- The half of level 2 fits in the array (R72). -/
theorem half_fits (P : DevParams) : halfBase P + memSize P / 2 ≤ memSize P := by
  unfold halfBase
  omega

/-- The quarter of level 1 lies in the half of level 2 (R72). -/
theorem quarter_in_half (P : DevParams) :
    halfBase P ≤ quarterBase P ∧ quarterBase P + memSize P / 4 ≤ halfBase P + memSize P / 2 := by
  unfold quarterBase
  omega

/-- An offset inside a page that begins inside the array stays inside the array. -/
theorem page_inside (P : DevParams) {page o : Nat} (hp : page % pageSize P = 0) (hm : page < memSize P)
    (ho : o < pageSize P) : page + o < memSize P := by
  obtain ⟨q, hq⟩ := pageSize_dvd_memSize P
  obtain ⟨r, hr⟩ := Nat.dvd_of_mod_eq_zero hp
  have hpos := pageSize_pos P
  have hlt : r < q := by
    rw [hr, hq] at hm
    exact Nat.lt_of_mul_lt_mul_left hm
  calc page + o < pageSize P * r + pageSize P := by omega
    _ = pageSize P * (r + 1) := by ring
    _ ≤ pageSize P * q := Nat.mul_le_mul_left _ hlt
    _ = memSize P := hq.symm

/-- The end of a frame: nothing was open; or the device holds any value; or a read-status frame changed nothing; or
the frame has the effect of its opcode (R57, R62 to R70, R212). -/
theorem deviceCsOff_cases (P : DevParams) (n : Nat) (d : Device) :
    (d.frame = none ∧ deviceCsOff P n d = d) ∨
    (∃ f, d.frame = some f ∧
      ((f.cut = true ∧ deviceCsOff P n d = deviceHavoc P n) ∨
       (f.cut = false ∧ f.opcode = some wireReadStatus ∧ f.count = 1 ∧
          deviceCsOff P n d = { d with frame := none }) ∨
       (f.cut = false ∧ ¬(f.opcode = some wireReadStatus ∧ f.count = 1) ∧ f.late = true ∧
          deviceCsOff P n d = deviceHavoc P n) ∨
       (f.cut = false ∧ ¬(f.opcode = some wireReadStatus ∧ f.count = 1) ∧ f.late = false ∧
          deviceCsOff P n d = frameEffect P n f { d with frame := none }))) := by
  cases hf : d.frame with
  | none => exact .inl ⟨rfl, by simp [deviceCsOff, hf]⟩
  | some f =>
    refine .inr ⟨f, rfl, ?_⟩
    by_cases hc : f.cut = true
    · exact .inl ⟨hc, by simp [deviceCsOff, hf, hc]⟩
    · have hc : f.cut = false := by simpa using hc
      by_cases ho : f.opcode = some wireReadStatus ∧ f.count = 1
      · exact .inr (.inl ⟨hc, ho.1, ho.2, by simp [deviceCsOff, hf, hc, ho.1, ho.2]⟩)
      · by_cases hl : f.late = true
        · exact .inr (.inr (.inl ⟨hc, ho, hl, by simp [deviceCsOff, hf, hc, ho, hl]⟩))
        · have hl : f.late = false := by simpa using hl
          exact .inr (.inr (.inr ⟨hc, ho, hl, by simp [deviceCsOff, hf, hc, ho, hl]⟩))

/-- The page buffer put into the array, byte by byte, keeps the canonical form. -/
theorem landAll_wf (P : DevParams) (bp : BitVec 2) (page : Nat) (buf : List Host.Cell) {m : Memory}
    (h : Memory.wf P m) : Memory.wf P (buf.foldl (landByte P bp page) m) := by
  induction buf generalizing m with
  | nil => exact h
  | cons c t ih => exact ih (landByte_wf P bp page c h)

/-- A device reset keeps the array in its canonical form. -/
theorem resetArray_wf (P : DevParams) (n : Nat) (d : Device) (h : Memory.wf P d.mem) :
    Memory.wf P (resetArray P n d) := by
  unfold resetArray
  split
  · exact h
  · rename_i page buf _
    exact List.foldlRecOn buf _ h (fun _ hm c _ => landByte_wf P d.bp page _ hm)
  · exact h
  · exact memory_ofFn_wf P _ _

/-- A completed write leaves no write pending and the latch clear; without one pending nothing changes (R63). -/
theorem deviceComplete_idle (P : DevParams) (n : Nat) (d : Device) :
    deviceBusy (deviceComplete P n d) = false ∧
      (d.pending ≠ none → (deviceComplete P n d).wel = false) := by
  unfold deviceBusy deviceComplete
  split <;> simp_all

/-- The status register reads the device's fields back (R65, R152 to R155). -/
theorem deviceStatus_decode (d : Device) :
    statusDecode (deviceStatus d) = { rdy := deviceBusy d, wen := d.wel, bp := d.bp, wpen := d.wpen } := by
  have h : ∀ (w : Bool) (r : BitVec 3) (b : BitVec 2) (l y : Bool),
      statusDecode (statusByte w r b l y) = { rdy := y, wen := l, bp := b, wpen := w } := by decide
  exact h _ _ _ _ _

end Sys2Proof.Machine
end

