-- ==== Sys2Proof/Laws/State.lean ====
section
/-! SUPPORT. What each update of the state does to each field, true by unfolding the update once; with these no later
proof unfolds a record update. -/

namespace Sys2Proof.Machine

/-! State.emit -/

@[simp] theorem emit_st (e : Event) (s : State) : (s.emit e).st = s.st := rfl
@[simp] theorem emit_op (e : Event) (s : State) : (s.emit e).op = s.op := rfl
@[simp] theorem emit_addr (e : Event) (s : State) : (s.emit e).addr = s.addr := rfl
@[simp] theorem emit_len (e : Event) (s : State) : (s.emit e).len = s.len := rfl
@[simp] theorem emit_cdata (e : Event) (s : State) : (s.emit e).cdata = s.cdata := rfl
@[simp] theorem emit_k (e : Event) (s : State) : (s.emit e).k = s.k := rfl
@[simp] theorem emit_wbuf (e : Event) (s : State) : (s.emit e).wbuf = s.wbuf := rfl
@[simp] theorem emit_rbuf (e : Event) (s : State) : (s.emit e).rbuf = s.rbuf := rfl
@[simp] theorem emit_sr (e : Event) (s : State) : (s.emit e).sr = s.sr := rfl
@[simp] theorem emit_fault (e : Event) (s : State) : (s.emit e).fault = s.fault := rfl
@[simp] theorem emit_code (e : Event) (s : State) : (s.emit e).code = s.code := rfl
@[simp] theorem emit_cs (e : Event) (s : State) : (s.emit e).cs = s.cs := rfl
@[simp] theorem emit_dev (e : Event) (s : State) : (s.emit e).dev = s.dev := rfl
@[simp] theorem emit_inp (e : Event) (s : State) : (s.emit e).inp = s.inp := rfl
@[simp] theorem emit_script (e : Event) (s : State) : (s.emit e).script = s.script := rfl
@[simp] theorem emit_later (e : Event) (s : State) : (s.emit e).later = s.later := rfl
@[simp] theorem emit_trace (e : Event) (s : State) : (s.emit e).trace = s.trace ++ [e] := rfl
@[simp] theorem emit_draws (e : Event) (s : State) : (s.emit e).draws = s.draws := rfl

/-! State.latch -/

@[simp] theorem latch_st (o : OpCode) (a : Addr) (n : Len) (d : Byte) (s : State) : (s.latch o a n d).st = s.st := rfl
@[simp] theorem latch_op (o : OpCode) (a : Addr) (n : Len) (d : Byte) (s : State) : (s.latch o a n d).op = o := rfl
@[simp] theorem latch_addr (o : OpCode) (a : Addr) (n : Len) (d : Byte) (s : State) : (s.latch o a n d).addr = a := rfl
@[simp] theorem latch_len (o : OpCode) (a : Addr) (n : Len) (d : Byte) (s : State) : (s.latch o a n d).len = n := rfl
@[simp] theorem latch_cdata (o : OpCode) (a : Addr) (n : Len) (d : Byte) (s : State) : (s.latch o a n d).cdata = d := rfl
@[simp] theorem latch_k (o : OpCode) (a : Addr) (n : Len) (d : Byte) (s : State) : (s.latch o a n d).k = 0 := rfl
@[simp] theorem latch_wbuf (o : OpCode) (a : Addr) (n : Len) (d : Byte) (s : State) : (s.latch o a n d).wbuf = s.wbuf := rfl
@[simp] theorem latch_rbuf (o : OpCode) (a : Addr) (n : Len) (d : Byte) (s : State) : (s.latch o a n d).rbuf = s.rbuf := rfl
@[simp] theorem latch_sr (o : OpCode) (a : Addr) (n : Len) (d : Byte) (s : State) : (s.latch o a n d).sr = s.sr := rfl
@[simp] theorem latch_fault (o : OpCode) (a : Addr) (n : Len) (d : Byte) (s : State) : (s.latch o a n d).fault = false := rfl
@[simp] theorem latch_code (o : OpCode) (a : Addr) (n : Len) (d : Byte) (s : State) : (s.latch o a n d).code = s.code := rfl
@[simp] theorem latch_cs (o : OpCode) (a : Addr) (n : Len) (d : Byte) (s : State) : (s.latch o a n d).cs = s.cs := rfl
@[simp] theorem latch_dev (o : OpCode) (a : Addr) (n : Len) (d : Byte) (s : State) : (s.latch o a n d).dev = s.dev := rfl
@[simp] theorem latch_inp (o : OpCode) (a : Addr) (n : Len) (d : Byte) (s : State) : (s.latch o a n d).inp = s.inp := rfl
@[simp] theorem latch_script (o : OpCode) (a : Addr) (n : Len) (d : Byte) (s : State) : (s.latch o a n d).script = s.script := rfl
@[simp] theorem latch_later (o : OpCode) (a : Addr) (n : Len) (d : Byte) (s : State) : (s.latch o a n d).later = s.later := rfl
@[simp] theorem latch_trace (o : OpCode) (a : Addr) (n : Len) (d : Byte) (s : State) : (s.latch o a n d).trace = s.trace := rfl
@[simp] theorem latch_draws (o : OpCode) (a : Addr) (n : Len) (d : Byte) (s : State) : (s.latch o a n d).draws = s.draws := rfl

/-! State.upcoming, nextInputs -/

theorem upcoming_script {s : State} (h : s.script ≠ []) : s.upcoming = s.script := by
  unfold State.upcoming
  split
  · exact absurd ‹_› h
  · exact Eq.symm ‹_›

theorem upcoming_later {s : State} (h : s.script = []) : s.upcoming = s.later.refill s.draws := by
  unfold State.upcoming
  rw [h]

@[simp] theorem refill_repeats (xs : List Inputs) (n : Nat) : (Later.repeats xs).refill n = xs := rfl
@[simp] theorem refill_free (n : Nat) : Later.free.refill n = [Inputs.free n] := rfl


@[simp] theorem nextInputs_st (s : State) : (nextInputs s).st = s.st := rfl
@[simp] theorem nextInputs_op (s : State) : (nextInputs s).op = s.op := rfl
@[simp] theorem nextInputs_addr (s : State) : (nextInputs s).addr = s.addr := rfl
@[simp] theorem nextInputs_len (s : State) : (nextInputs s).len = s.len := rfl
@[simp] theorem nextInputs_cdata (s : State) : (nextInputs s).cdata = s.cdata := rfl
@[simp] theorem nextInputs_k (s : State) : (nextInputs s).k = s.k := rfl
@[simp] theorem nextInputs_wbuf (s : State) : (nextInputs s).wbuf = s.wbuf := rfl
@[simp] theorem nextInputs_rbuf (s : State) : (nextInputs s).rbuf = s.rbuf := rfl
@[simp] theorem nextInputs_sr (s : State) : (nextInputs s).sr = s.sr := rfl
@[simp] theorem nextInputs_fault (s : State) : (nextInputs s).fault = s.fault := rfl
@[simp] theorem nextInputs_code (s : State) : (nextInputs s).code = s.code := rfl
@[simp] theorem nextInputs_cs (s : State) : (nextInputs s).cs = s.cs := rfl
@[simp] theorem nextInputs_dev (s : State) : (nextInputs s).dev = s.dev := rfl
@[simp] theorem nextInputs_inp (s : State) : (nextInputs s).inp = s.upcoming.headD Inputs.quiet := rfl
@[simp] theorem nextInputs_script (s : State) : (nextInputs s).script = s.upcoming.tail := rfl
@[simp] theorem nextInputs_later (s : State) : (nextInputs s).later = s.later := rfl
@[simp] theorem nextInputs_trace (s : State) : (nextInputs s).trace = s.trace := rfl
@[simp] theorem nextInputs_draws (s : State) : (nextInputs s).draws = s.draws + 1 := rfl

/-! assertStep -/

@[simp] theorem assertStep_st (s : State) : (assertStep s).st = .xchg := rfl
@[simp] theorem assertStep_op (s : State) : (assertStep s).op = s.op := rfl
@[simp] theorem assertStep_addr (s : State) : (assertStep s).addr = s.addr := rfl
@[simp] theorem assertStep_len (s : State) : (assertStep s).len = s.len := rfl
@[simp] theorem assertStep_cdata (s : State) : (assertStep s).cdata = s.cdata := rfl
@[simp] theorem assertStep_k (s : State) : (assertStep s).k = s.k := rfl
@[simp] theorem assertStep_wbuf (s : State) : (assertStep s).wbuf = s.wbuf := rfl
@[simp] theorem assertStep_rbuf (s : State) : (assertStep s).rbuf = s.rbuf := rfl
@[simp] theorem assertStep_sr (s : State) : (assertStep s).sr = s.sr := rfl
@[simp] theorem assertStep_fault (s : State) : (assertStep s).fault = s.fault := rfl
@[simp] theorem assertStep_code (s : State) : (assertStep s).code = s.code := rfl
@[simp] theorem assertStep_cs (s : State) : (assertStep s).cs = true := rfl
@[simp] theorem assertStep_dev (s : State) : (assertStep s).dev = deviceCsOn s.dev := rfl
@[simp] theorem assertStep_inp (s : State) : (assertStep s).inp = s.inp := rfl
@[simp] theorem assertStep_script (s : State) : (assertStep s).script = s.script := rfl
@[simp] theorem assertStep_later (s : State) : (assertStep s).later = s.later := rfl
@[simp] theorem assertStep_trace (s : State) : (assertStep s).trace = s.trace ++ [.csOn] := rfl
@[simp] theorem assertStep_draws (s : State) : (assertStep s).draws = s.draws := rfl

/-! transportFault -/

@[simp] theorem transportFault_st (c : Command) (s : State) : (transportFault c s).st = .deassert := rfl
@[simp] theorem transportFault_op (c : Command) (s : State) : (transportFault c s).op = s.op := rfl
@[simp] theorem transportFault_addr (c : Command) (s : State) : (transportFault c s).addr = s.addr := rfl
@[simp] theorem transportFault_len (c : Command) (s : State) : (transportFault c s).len = s.len := rfl
@[simp] theorem transportFault_cdata (c : Command) (s : State) : (transportFault c s).cdata = s.cdata := rfl
@[simp] theorem transportFault_k (c : Command) (s : State) : (transportFault c s).k = s.k := rfl
@[simp] theorem transportFault_wbuf (c : Command) (s : State) : (transportFault c s).wbuf = s.wbuf := rfl
@[simp] theorem transportFault_rbuf (c : Command) (s : State) : (transportFault c s).rbuf = s.rbuf := rfl
@[simp] theorem transportFault_sr (c : Command) (s : State) : (transportFault c s).sr = s.sr := rfl
@[simp] theorem transportFault_fault (c : Command) (s : State) : (transportFault c s).fault = true := rfl
@[simp] theorem transportFault_code (c : Command) (s : State) : (transportFault c s).code = s.code := rfl
@[simp] theorem transportFault_cs (c : Command) (s : State) : (transportFault c s).cs = s.cs := rfl
@[simp] theorem transportFault_dev (c : Command) (s : State) : (transportFault c s).dev = deviceCut s.dev := rfl
@[simp] theorem transportFault_inp (c : Command) (s : State) : (transportFault c s).inp = s.inp := rfl
@[simp] theorem transportFault_script (c : Command) (s : State) : (transportFault c s).script = s.script := rfl
@[simp] theorem transportFault_later (c : Command) (s : State) : (transportFault c s).later = s.later := rfl
@[simp] theorem transportFault_trace (c : Command) (s : State) : (transportFault c s).trace = s.trace ++ [.xcFault (s.tx c)] := rfl
@[simp] theorem transportFault_draws (c : Command) (s : State) : (transportFault c s).draws = s.draws := rfl

/-! exchanged -/

@[simp] theorem exchanged_st (c : Command) (s : State) : (exchanged c s).st = s.st := rfl
@[simp] theorem exchanged_op (c : Command) (s : State) : (exchanged c s).op = s.op := rfl
@[simp] theorem exchanged_addr (c : Command) (s : State) : (exchanged c s).addr = s.addr := rfl
@[simp] theorem exchanged_len (c : Command) (s : State) : (exchanged c s).len = s.len := rfl
@[simp] theorem exchanged_cdata (c : Command) (s : State) : (exchanged c s).cdata = s.cdata := rfl
@[simp] theorem exchanged_k (c : Command) (s : State) : (exchanged c s).k = s.k := rfl
@[simp] theorem exchanged_wbuf (c : Command) (s : State) : (exchanged c s).wbuf = s.wbuf := rfl
@[simp] theorem exchanged_rbuf (c : Command) (s : State) : (exchanged c s).rbuf = s.rbuf := rfl
@[simp] theorem exchanged_sr (c : Command) (s : State) : (exchanged c s).sr = s.sr := rfl
@[simp] theorem exchanged_fault (c : Command) (s : State) : (exchanged c s).fault = s.fault := rfl
@[simp] theorem exchanged_code (c : Command) (s : State) : (exchanged c s).code = s.code := rfl
@[simp] theorem exchanged_cs (c : Command) (s : State) : (exchanged c s).cs = s.cs := rfl
@[simp] theorem exchanged_dev (c : Command) (s : State) : (exchanged c s).dev = deviceTake Config.device s.dev (s.tx c) := rfl
@[simp] theorem exchanged_inp (c : Command) (s : State) : (exchanged c s).inp = s.inp := rfl
@[simp] theorem exchanged_script (c : Command) (s : State) : (exchanged c s).script = s.script := rfl
@[simp] theorem exchanged_later (c : Command) (s : State) : (exchanged c s).later = s.later := rfl
@[simp] theorem exchanged_trace (c : Command) (s : State) : (exchanged c s).trace = s.trace ++ [.xc (s.tx c) s.rx] := rfl
@[simp] theorem exchanged_draws (c : Command) (s : State) : (exchanged c s).draws = s.draws := rfl

/-! advance -/

@[simp] theorem advance_st (c : Command) (s : State) : (advance c s).st = if s.k + 1 = frameLen c s.len then .deassert else if needsFetch c (s.k + 1) then .fetch else .xchg := rfl
@[simp] theorem advance_op (c : Command) (s : State) : (advance c s).op = s.op := rfl
@[simp] theorem advance_addr (c : Command) (s : State) : (advance c s).addr = s.addr := rfl
@[simp] theorem advance_len (c : Command) (s : State) : (advance c s).len = s.len := rfl
@[simp] theorem advance_cdata (c : Command) (s : State) : (advance c s).cdata = s.cdata := rfl
@[simp] theorem advance_k (c : Command) (s : State) : (advance c s).k = s.k + 1 := rfl
@[simp] theorem advance_wbuf (c : Command) (s : State) : (advance c s).wbuf = s.wbuf := rfl
@[simp] theorem advance_rbuf (c : Command) (s : State) : (advance c s).rbuf = s.rbuf := rfl
@[simp] theorem advance_sr (c : Command) (s : State) : (advance c s).sr = s.sr := rfl
@[simp] theorem advance_fault (c : Command) (s : State) : (advance c s).fault = s.fault := rfl
@[simp] theorem advance_code (c : Command) (s : State) : (advance c s).code = s.code := rfl
@[simp] theorem advance_cs (c : Command) (s : State) : (advance c s).cs = s.cs := rfl
@[simp] theorem advance_dev (c : Command) (s : State) : (advance c s).dev = s.dev := rfl
@[simp] theorem advance_inp (c : Command) (s : State) : (advance c s).inp = s.inp := rfl
@[simp] theorem advance_script (c : Command) (s : State) : (advance c s).script = s.script := rfl
@[simp] theorem advance_later (c : Command) (s : State) : (advance c s).later = s.later := rfl
@[simp] theorem advance_trace (c : Command) (s : State) : (advance c s).trace = s.trace := rfl
@[simp] theorem advance_draws (c : Command) (s : State) : (advance c s).draws = s.draws := rfl

/-! resetStep, deviceStep, presentWord: the fields a claim reads -/

@[simp] theorem resetStep_st (s : State) : (resetStep s).st = .idle := rfl
@[simp] theorem resetStep_cs (s : State) : (resetStep s).cs = false := rfl
@[simp] theorem resetStep_trace (s : State) : (resetStep s).trace = s.trace ++ [.rst] := rfl
@[simp] theorem resetStep_inp (s : State) : (resetStep s).inp = s.inp := rfl
@[simp] theorem resetStep_script (s : State) : (resetStep s).script = s.script := rfl
@[simp] theorem resetStep_later (s : State) : (resetStep s).later = s.later := rfl
@[simp] theorem resetStep_draws (s : State) : (resetStep s).draws = s.draws := rfl
@[simp] theorem resetStep_dev (s : State) : (resetStep s).dev = if s.cs then deviceHavoc Config.device s.draws else s.dev := rfl
@[simp] theorem deviceStep_st (s : State) : (deviceStep s).st = s.st := rfl
@[simp] theorem deviceStep_op (s : State) : (deviceStep s).op = s.op := rfl
@[simp] theorem deviceStep_addr (s : State) : (deviceStep s).addr = s.addr := rfl
@[simp] theorem deviceStep_len (s : State) : (deviceStep s).len = s.len := rfl
@[simp] theorem deviceStep_cdata (s : State) : (deviceStep s).cdata = s.cdata := rfl
@[simp] theorem deviceStep_k (s : State) : (deviceStep s).k = s.k := rfl
@[simp] theorem deviceStep_wbuf (s : State) : (deviceStep s).wbuf = s.wbuf := rfl
@[simp] theorem deviceStep_rbuf (s : State) : (deviceStep s).rbuf = s.rbuf := rfl
@[simp] theorem deviceStep_sr (s : State) : (deviceStep s).sr = s.sr := rfl
@[simp] theorem deviceStep_fault (s : State) : (deviceStep s).fault = s.fault := rfl
@[simp] theorem deviceStep_code (s : State) : (deviceStep s).code = s.code := rfl
@[simp] theorem deviceStep_cs (s : State) : (deviceStep s).cs = s.cs := rfl
@[simp] theorem deviceStep_inp (s : State) : (deviceStep s).inp = s.inp := rfl
@[simp] theorem deviceStep_script (s : State) : (deviceStep s).script = s.script := rfl
@[simp] theorem deviceStep_later (s : State) : (deviceStep s).later = s.later := rfl
@[simp] theorem deviceStep_trace (s : State) : (deviceStep s).trace = s.trace := rfl
@[simp] theorem deviceStep_draws (s : State) : (deviceStep s).draws = s.draws + 1 := rfl
@[simp] theorem presentWord_st (s : State) (w : CmdWord) : (presentWord s w).st = .idle := rfl
@[simp] theorem presentWord_op (s : State) (w : CmdWord) : (presentWord s w).op = s.op := rfl
@[simp] theorem presentWord_addr (s : State) (w : CmdWord) : (presentWord s w).addr = s.addr := rfl
@[simp] theorem presentWord_len (s : State) (w : CmdWord) : (presentWord s w).len = s.len := rfl
@[simp] theorem presentWord_cdata (s : State) (w : CmdWord) : (presentWord s w).cdata = s.cdata := rfl
@[simp] theorem presentWord_k (s : State) (w : CmdWord) : (presentWord s w).k = s.k := rfl
@[simp] theorem presentWord_wbuf (s : State) (w : CmdWord) : (presentWord s w).wbuf = s.wbuf := rfl
@[simp] theorem presentWord_rbuf (s : State) (w : CmdWord) : (presentWord s w).rbuf = s.rbuf := rfl
@[simp] theorem presentWord_sr (s : State) (w : CmdWord) : (presentWord s w).sr = s.sr := rfl
@[simp] theorem presentWord_fault (s : State) (w : CmdWord) : (presentWord s w).fault = s.fault := rfl
@[simp] theorem presentWord_code (s : State) (w : CmdWord) : (presentWord s w).code = s.code := rfl
@[simp] theorem presentWord_cs (s : State) (w : CmdWord) : (presentWord s w).cs = s.cs := rfl
@[simp] theorem presentWord_dev (s : State) (w : CmdWord) : (presentWord s w).dev = s.dev := rfl
@[simp] theorem presentWord_script (s : State) (w : CmdWord) : (presentWord s w).script = s.script := rfl
@[simp] theorem presentWord_later (s : State) (w : CmdWord) : (presentWord s w).later = s.later := rfl
@[simp] theorem presentWord_trace (s : State) (w : CmdWord) : (presentWord s w).trace = s.trace := rfl
@[simp] theorem presentWord_draws (s : State) (w : CmdWord) : (presentWord s w).draws = s.draws := rfl

end Sys2Proof.Machine
end

