-- ==== Sys2Proof/Laws/Ops.lean ====
section
/-! SUPPORT. For each shared operation, once, everything it can do; and which of them a step is. A proof about a step
cites these instead of unfolding the machine. -/

namespace Sys2Proof.Machine

/-- FetchStep holds, or takes the byte offered (R124). -/
theorem fetchStep_cases (s : State) :
    (s.inp.wdValid = false ∧ fetchStep s = s) ∨
    (s.inp.wdValid = true ∧ fetchStep s = { s.emit (.wd s.inp.wdData) with wbuf := s.inp.wdData, st := .xchg }) := by
  cases h : s.inp.wdValid <;> simp [fetchStep, h]

/-- DeliverStep holds, or gives the byte and advances (R126). -/
theorem deliverStep_cases (c : Command) (s : State) :
    (s.inp.rdReady = false ∧ deliverStep c s = s) ∨
    (s.inp.rdReady = true ∧ deliverStep c s = advance c (s.emit (.rd s.rbuf))) := by
  cases h : s.inp.rdReady <;> simp [deliverStep, h]

/-- PauseStep holds, or runs the delay and starts the next polling frame (R193). -/
theorem pauseStep_cases (s : State) :
    (s.inp.dDone = false ∧ pauseStep s = s) ∨
    (s.inp.dDone = true ∧ pauseStep s = { s.emit (.dly pollDelayUs) with k := 0, st := .assert }) := by
  cases h : s.inp.dDone <;> simp [pauseStep, h]

/-- RespStep holds, or gives the response and goes to IDLE (R129). -/
theorem respStep_cases (s : State) :
    (s.inp.rspReady = false ∧ respStep s = s) ∨
    (s.inp.rspReady = true ∧ respStep s = { s.emit (.rsp s.code) with st := .idle }) := by
  cases h : s.inp.rspReady <;> simp [respStep, h]

/-- XchgStep holds, faults, or exchanges and disposes of the received byte (R123, R127). -/
theorem xchgStep_cases (c : Command) (s : State) :
    (s.inp.xAck = false ∧ xchgStep c s = s) ∨
    (s.inp.xAck = true ∧ s.inp.xErr = true ∧ xchgStep c s = transportFault c s) ∨
    (s.inp.xAck = true ∧ s.inp.xErr = false ∧ rxUse c s.k = .deliver ∧
      xchgStep c s = { exchanged c s with rbuf := s.rx, st := .deliver }) ∨
    (s.inp.xAck = true ∧ s.inp.xErr = false ∧ rxUse c s.k = .poll ∧
      xchgStep c s = advance c { exchanged c s with sr := s.rx }) ∨
    (s.inp.xAck = true ∧ s.inp.xErr = false ∧ rxUse c s.k = .discard ∧ xchgStep c s = advance c (exchanged c s)) := by
  cases ha : s.inp.xAck <;> cases he : s.inp.xErr <;> cases hu : rxUse c s.k <;> simp [xchgStep, ha, he, hu]

/-- DeassertStep reports a fault, or polls on, or finishes with OK (R128, R192). -/
theorem deassertStep_cases (wait : Bool) (s : State) :
    let t := { s.emit .csOff with cs := false, dev := deviceCsOff Config.device s.draws s.dev }
    (s.fault = true ∧ deassertStep wait s = { t with code := codeTransportFault, st := .resp }) ∨
    (s.fault = false ∧ wait = true ∧ statusRdy s.sr = true ∧ deassertStep wait s = { t with st := .pause }) ∨
    (s.fault = false ∧ (wait = true → statusRdy s.sr = false) ∧
      deassertStep wait s = { t with code := codeOk, st := .resp }) := by
  cases hf : s.fault <;> cases wait <;> cases hr : statusRdy s.sr <;>
    simp [deassertStep, pollDecision, hf, hr]

/-- The step of a legal command is the step its state selects (R120). -/
theorem commandStep_cases (c : Command) (a : Addr) (n : Len) (d : Byte) (s : State) :
    (s.st = .idle ∧ commandStep c a n d s = .next (acceptLegal c.op a n d s)) ∨
    (s.st = .assert ∧ commandStep c a n d s = .next (assertStep s)) ∨
    (s.st = .fetch ∧ commandStep c a n d s = .next (fetchStep s)) ∨
    (s.st = .xchg ∧ commandStep c a n d s = .next (xchgStep c s)) ∨
    (s.st = .deliver ∧ commandStep c a n d s = .next (deliverStep c s)) ∨
    (s.st = .deassert ∧ commandStep c a n d s = .next (deassertStep (c == .waitWriteComplete) s)) ∨
    (s.st = .pause ∧ commandStep c a n d s = .next (pauseStep s)) ∨
    (s.st = .resp ∧ commandStep c a n d s = .next (respStep s)) := by
  cases h : s.st <;> simp [commandStep, h]

/-- The step of an illegal op code is the step its state selects, or the fault of the two states that need a byte or
a length (R95, R120). -/
theorem illegalStep_cases (o : OpCode) (a : Addr) (n : Len) (d : Byte) (s : State) :
    (s.st = .idle ∧ illegalStep o a n d s = .next (acceptIllegal o a n d s)) ∨
    (s.st = .assert ∧ illegalStep o a n d s = .next (assertStep s)) ∨
    (s.st = .fetch ∧ illegalStep o a n d s = .next (fetchStep s)) ∨
    ((s.st = .xchg ∨ s.st = .deliver) ∧ illegalStep o a n d s = .fault .illegalOpInFrame) ∨
    (s.st = .deassert ∧ illegalStep o a n d s = .next (deassertStep false s)) ∨
    (s.st = .pause ∧ illegalStep o a n d s = .next (pauseStep s)) ∨
    (s.st = .resp ∧ illegalStep o a n d s = .next (respStep s)) := by
  cases h : s.st <;> simp [illegalStep, h]

/-- The meaning of a command whose op code is legal is the legal command's step. -/
theorem exec_legal {i : Instr} {c : Command} (h : Command.ofOp i.op = some c) (s : State) :
    c.op = i.op ∧ exec i s = commandStep c i.addr i.len i.data s := by
  cases i <;> cases h <;> exact ⟨rfl, rfl⟩

/-- The meaning of a command whose op code is illegal is the illegal step. -/
theorem exec_illegal {i : Instr} (h : Command.ofOp i.op = none) (s : State) :
    exec i s = illegalStep i.op i.addr i.len i.data s := by
  cases i <;> first | rfl | cases h

/-- The op code and the fields of a decoded command are those on the ports (R90, R96). -/
theorem decodePorts_fields (o : OpCode) (a : Addr) (n : Len) (d : Byte) :
    (decodePorts o a n d).op = o ∧ (decodePorts o a n d).addr = a ∧ (decodePorts o a n d).len = n ∧
      (decodePorts o a n d).data = d := by
  have h : ∀ o : OpCode, (decodePorts o a n d).op = o := by
    intro o
    obtain ⟨v, hv⟩ : ∃ v : Fin 16, o = BitVec.ofFin v := ⟨o.toFin, rfl⟩
    subst hv
    fin_cases v <;> rfl
  refine ⟨h o, ?_, ?_, ?_⟩ <;>
    · unfold decodePorts
      split <;> rfl

/-- What a step is: a reset step, a held step, or the step of the command that is due (R120). -/
theorem step_cases {s t : State} (h : step s = .next t) :
    (s.inp.rst = true ∧ t = nextInputs (resetStep (deviceStep s))) ∨
    (s.inp.rst = false ∧ s.st = .idle ∧ s.inp.cmdValid = false ∧ t = nextInputs (deviceStep s)) ∨
    (s.inp.rst = false ∧ ∃ i u, fetchInstr (deviceStep s) = some i ∧ exec i (deviceStep s) = .next u ∧
      t = nextInputs u) := by
  unfold step at h
  split at h
  · rename_i hr
    cases h
    exact .inl ⟨hr, rfl⟩
  · rename_i hr
    have hr : s.inp.rst = false := by simpa using hr
    split at h
    · rename_i hf
      cases h
      refine .inr (.inl ⟨hr, ?_⟩)
      cases hs : s.st <;> cases hv : s.inp.cmdValid <;> simp_all [fetchInstr]
    · rename_i i hf
      refine .inr (.inr ⟨hr, i, ?_⟩)
      cases he : exec i (deviceStep s) with
      | next u => rw [he] at h; cases h; exact ⟨u, hf, rfl, rfl⟩
      | fault r => rw [he] at h; cases h
      | refused r => rw [he] at h; cases h

/-- The command due in IDLE is the one on the ports. -/
theorem fetchInstr_idle {s : State} (hs : s.st = .idle) (hv : s.inp.cmdValid = true) :
    fetchInstr s = some (decodePorts s.inp.cmdOp s.inp.cmdAddr s.inp.cmdLen s.inp.cmdData) := by
  simp [fetchInstr, hs, hv]

/-- The command due elsewhere is the latched one. -/
theorem fetchInstr_latched {s : State} (hs : s.st ≠ .idle) :
    fetchInstr s = some (decodePorts s.op s.addr s.len s.cdata) := by
  cases h : s.st <;> simp_all [fetchInstr]

end Sys2Proof.Machine
end

