-- ==== Sys2Proof/Laws/PerInstr.lean ====
section
/-! SUPPORT. Per-instruction statements about commands as syntax. WordForm: the command word the encoder writes has the
command's op code in bits 3:0 and its reserved bits 7:4 and 63:48 clear (30_encoding.md R90). -/

namespace Sys2Proof.Laws

/-- Bit `i` of a word laid out as R90 says: the fields from bit 0 up. -/
theorem word_bit (n : Len) (a : Addr) (d : Byte) (o : OpCode) (i : Nat) :
    (0#16 ++ n ++ a ++ d ++ 0#4 ++ o : BitVec 64).getLsbD i =
      if i < 4 then o.getLsbD i else if i < 8 then false else if i < 16 then d.getLsbD (i - 8)
      else if i < 32 then a.getLsbD (i - 16) else if i < 48 then n.getLsbD (i - 32) else false := by
  show BitVec.getLsbD (w := 16 + 16 + 16 + 8 + 4 + 4) (0#16 ++ n ++ a ++ d ++ 0#4 ++ o) i = _
  simp only [BitVec.getLsbD_append, BitVec.getLsbD_zero]
  split_ifs <;> first | rfl | omega

/-- The op field and the reserved fields of a word laid out as R90 says. -/
theorem word_layout (n : Len) (a : Addr) (d : Byte) (o : OpCode) :
    wordOp (0#16 ++ n ++ a ++ d ++ 0#4 ++ o : BitVec 64) = o ∧
      CmdWord.reservedZero (0#16 ++ n ++ a ++ d ++ 0#4 ++ o : BitVec 64) = true := by
  constructor
  · apply BitVec.eq_of_getElem_eq
    intro i hi
    simp only [wordOp, BitVec.getElem_extractLsb', word_bit]
    simp [hi]
  · have h1 : (0#16 ++ n ++ a ++ d ++ 0#4 ++ o : BitVec 64).extractLsb' 4 4 = 0#4 := by
      apply BitVec.eq_of_getElem_eq
      intro i hi
      simp only [BitVec.getElem_extractLsb', word_bit]
      split_ifs <;> first | omega | simp
    have h2 : (0#16 ++ n ++ a ++ d ++ 0#4 ++ o : BitVec 64).extractLsb' 48 16 = 0#16 := by
      apply BitVec.eq_of_getElem_eq
      intro i hi
      simp only [BitVec.getElem_extractLsb', word_bit]
      split_ifs <;> first | omega | simp
    simp only [CmdWord.reservedZero, h1, h2]
    rfl

/-- The op field is the command's op code and the reserved bits are clear (R90). -/
def WordForm.Statement (i : Instr) : Prop := wordOp (encode i) = i.op ∧ CmdWord.reservedZero (encode i) = true

theorem WordForm.enableWrite (addr : Addr) (len : Len) (data : Byte) : WordForm.Statement (.enableWrite addr len data) :=
  word_layout len addr data _

theorem WordForm.disableWrite (addr : Addr) (len : Len) (data : Byte) : WordForm.Statement (.disableWrite addr len data) :=
  word_layout len addr data _

theorem WordForm.readStatus (addr : Addr) (len : Len) (data : Byte) : WordForm.Statement (.readStatus addr len data) :=
  word_layout len addr data _

theorem WordForm.writeStatus (addr : Addr) (len : Len) (data : Byte) : WordForm.Statement (.writeStatus addr len data) :=
  word_layout len addr data _

theorem WordForm.readByte (addr : Addr) (len : Len) (data : Byte) : WordForm.Statement (.readByte addr len data) :=
  word_layout len addr data _

theorem WordForm.writeByte (addr : Addr) (len : Len) (data : Byte) : WordForm.Statement (.writeByte addr len data) :=
  word_layout len addr data _

theorem WordForm.readRange (addr : Addr) (len : Len) (data : Byte) : WordForm.Statement (.readRange addr len data) :=
  word_layout len addr data _

theorem WordForm.writeRange (addr : Addr) (len : Len) (data : Byte) : WordForm.Statement (.writeRange addr len data) :=
  word_layout len addr data _

theorem WordForm.waitWriteComplete (addr : Addr) (len : Len) (data : Byte) : WordForm.Statement (.waitWriteComplete addr len data) :=
  word_layout len addr data _

theorem WordForm.illegal0 (addr : Addr) (len : Len) (data : Byte) : WordForm.Statement (.illegal0 addr len data) :=
  word_layout len addr data _

theorem WordForm.illegalA (addr : Addr) (len : Len) (data : Byte) : WordForm.Statement (.illegalA addr len data) :=
  word_layout len addr data _

theorem WordForm.illegalB (addr : Addr) (len : Len) (data : Byte) : WordForm.Statement (.illegalB addr len data) :=
  word_layout len addr data _

theorem WordForm.illegalC (addr : Addr) (len : Len) (data : Byte) : WordForm.Statement (.illegalC addr len data) :=
  word_layout len addr data _

theorem WordForm.illegalD (addr : Addr) (len : Len) (data : Byte) : WordForm.Statement (.illegalD addr len data) :=
  word_layout len addr data _

theorem WordForm.illegalE (addr : Addr) (len : Len) (data : Byte) : WordForm.Statement (.illegalE addr len data) :=
  word_layout len addr data _

theorem WordForm.illegalF (addr : Addr) (len : Len) (data : Byte) : WordForm.Statement (.illegalF addr len data) :=
  word_layout len addr data _

end Sys2Proof.Laws
end

