-- ==== Sys2Proof/Machine/AsmText.lean ====
section
/-! DEFINITION. Reading the assembler syntax of 30_encoding.md R110 and R111: one command or pseudo-instruction per line,
numbers in decimal or `0x` hex, `;` starts a comment. A line that is none of these is refused (none; log 33). -/

namespace Sys2Proof.Machine

/-- A piece of a line. -/
inductive AsmToken where
  | name (cs : List Char)
  | number (n : Nat)
  | comma
  | openList
  | closeList
deriving DecidableEq, Repr

/-- The value of a digit in decimal or hex, none for another character. -/
def digitValue (c : Char) : Option Nat :=
  let n := c.toNat
  if 48 ≤ n ∧ n ≤ 57 then some (n - 48)
  else if 97 ≤ n ∧ n ≤ 102 then some (n - 87)
  else if 65 ≤ n ∧ n ≤ 70 then some (n - 55)
  else none

/-- The digits of a number in the given base, most significant first, on top of what was read before them. -/
def readDigits (base : Nat) : Nat → List Char → Option Nat
  | n, [] => some n
  | n, c :: cs =>
    match digitValue c with
    | some d => if d < base then readDigits base (n * base + d) cs else none
    | none => none

/-- A number in decimal or `0x` hex (R110). -/
def readNumber (cs : List Char) : Option Nat :=
  match cs with
  | '0' :: 'x' :: d :: ds => readDigits 16 0 (d :: ds)
  | c :: ds => readDigits 10 0 (c :: ds)
  | [] => none

/-- A word is a number if it begins with a decimal digit, and a name otherwise. -/
def wordToken (w : List Char) : Option AsmToken :=
  match w with
  | [] => none
  | c :: cs =>
    if 48 ≤ c.toNat ∧ c.toNat ≤ 57 then (readNumber (c :: cs)).map .number else some (.name (c :: cs))

/-- Letters, digits, `_` and `.` make up words. -/
def isWordChar (c : Char) : Bool :=
  let n := c.toNat
  (48 ≤ n && n ≤ 57) || (65 ≤ n && n ≤ 90) || (97 ≤ n && n ≤ 122) || n == 95 || n == 46

/-- Put the word collected so far, if any, before the tokens that follow it. -/
def putWord (w : List Char) (rest : Option (List AsmToken)) : Option (List AsmToken) :=
  if w.isEmpty then rest
  else
    match wordToken w.reverse, rest with
    | some t, some ts => some (t :: ts)
    | _, _ => none

/-- The tokens of a line up to a comment; `w` is the word being read, last character first. -/
def tokens (w : List Char) : List Char → Option (List AsmToken)
  | [] => putWord w (some [])
  | c :: cs =>
    if isWordChar c then tokens (c :: w) cs
    else if c == ';' then putWord w (some [])
    else if c == ' ' || c == '\t' then putWord w (tokens [] cs)
    else if c == ',' then putWord w ((tokens [] cs).map (.comma :: ·))
    else if c == '[' then putWord w ((tokens [] cs).map (.openList :: ·))
    else if c == ']' then putWord w ((tokens [] cs).map (.closeList :: ·))
    else none

/-- A number that fits in `w` bits (R110). -/
def fit (w n : Nat) : Option (BitVec w) := if n < 2 ^ w then some (BitVec.ofNat w n) else none

/-- The bytes of a list after its opening bracket, up to the closing bracket that ends the line. -/
def readBytes : List AsmToken → Option (List Byte)
  | [.closeList] => some []
  | [.number n, .closeList] => (fit 8 n).map (fun b => [b])
  | .number n :: .comma :: rest =>
    match fit 8 n, rest, readBytes rest with
    | some b, .number _ :: _, some bs => some (b :: bs)
    | _, _, _ => none
  | _ => none

/-- An address, a length and a list of exactly that many bytes (R110). -/
def readRangeOperands : List AsmToken → Option (Addr × List Byte)
  | .number a :: .comma :: .number n :: .comma :: .openList :: rest =>
    match fit 16 a, fit 16 n, readBytes rest with
    | some a', some n', some bs => if bs.length = n'.toNat then some (a', bs) else none
    | _, _, _ => none
  | _ => none

/-- The lines a name with its operands stands for: a command of R110 is one line, a pseudo-instruction of R111 its
expansion. -/
def asmLines (P : DevParams) (name : List Char) (ops : List AsmToken) : Option (List AsmLine) :=
  if name = "ENABLE_WRITE".toList then if ops = [] then some [.enableWrite] else none
  else if name = "DISABLE_WRITE".toList then if ops = [] then some [.disableWrite] else none
  else if name = "READ_STATUS".toList then if ops = [] then some [.readStatus] else none
  else if name = "WAIT_WRITE_COMPLETE".toList then if ops = [] then some [.waitWriteComplete] else none
  else if name = "WRITE_STATUS".toList then
    match ops with
    | [.number v] => (fit 8 v).map (fun b => [.writeStatus b])
    | _ => none
  else if name = "WRITE_STATUS_SYNC".toList then
    match ops with
    | [.number v] => (fit 8 v).map writeStatusSync
    | _ => none
  else if name = "READ_BYTE".toList then
    match ops with
    | [.number a] => (fit 16 a).map (fun a' => [.readByte a'])
    | _ => none
  else if name = "WRITE_BYTE".toList then
    match ops with
    | [.number a, .comma, .number v] =>
      (fit 16 a).bind (fun a' => (fit 8 v).map (fun b => [.writeByte a' b]))
    | _ => none
  else if name = "WRITE_BYTE_SYNC".toList then
    match ops with
    | [.number a, .comma, .number v] => (fit 16 a).bind (fun a' => (fit 8 v).map (writeByteSync a'))
    | _ => none
  else if name = "READ_RANGE".toList then
    match ops with
    | [.number a, .comma, .number n] =>
      (fit 16 a).bind (fun a' => (fit 16 n).map (fun n' => [.readRange a' n']))
    | _ => none
  else if name = "WRITE_RANGE".toList then
    (readRangeOperands ops).map (fun r => [.writeRange r.1 (BitVec.ofNat 16 r.2.length) r.2])
  else if name = "WRITE_RANGE_SYNC".toList then (readRangeOperands ops).map (fun r => writeRangeSync r.1 r.2)
  else if name = "WRITE_PAGED".toList then (readRangeOperands ops).map (fun r => writePaged P r.1 r.2)
  else if name = ".word".toList then
    match ops with
    | [.number w] => (fit 64 w).map (fun w' => [.word w'])
    | _ => none
  else none

/-- The lines one line of text stands for: none of them for a blank line or a comment (R110, R111). The page size of
WRITE_PAGED is the device's. -/
def asmRead (P : DevParams) (line : String) : Option (List AsmLine) :=
  match tokens [] line.toList with
  | some [] => some []
  | some (.name cs :: ops) => asmLines P cs ops
  | _ => none

end Sys2Proof.Machine
end

