-- ==== Sys2Proof/Tests/Slice0.lean ====
section
/-! SUPPORT. Tests whose expected results are the spec's own vectors (95_test_vectors.md) and rules, and for every
statement with hypotheses a concrete instance that meets them. -/

namespace Sys2Proof.Tests

open Sys2Proof.Machine

/-! ## Helpers -/

/-- A device at rest, with the latch clear (95_test_vectors.md, Program 1). -/
def restDevice : Device :=
  { mem := [], wel := false, pending := none, bp := 0, wpen := false, res := 0, frame := none }

/-- The AT25320A values of 95_test_vectors.md's conventions. -/
def at25320a : DevParams :=
  { memLog := 12, pageLog := 5, halfStart := 2048, quarterStart := 1024,
    requiresWel := true, srMask := 0x8C, blank := fun _ => 0xFF }

/-- A controller in state `st` executing op `o` at position `k`. -/
def ctl (st : St) (o : OpCode) (k : Pos) : State :=
  { State.reset with st := st, op := o, k := k, addr := 0x0010, len := 2, cdata := 0x5A, wbuf := 0x11, cs := inFrame st,
                     dev := restDevice }

/-- The state after a step, if the step answered one. -/
def after (o : Host.Outcome State Fault Refusal) : Option State :=
  match o with
  | .next s => some s
  | .fault _ => none
  | .refused _ => none

/-- The state of the controller, its position and its chip-select after a step. -/
def place (o : Host.Outcome State Fault Refusal) : Option (St × Pos × Bool) :=
  (after o).map (fun s => (s.st, s.k, s.cs))

/-! ## WellFormed: an ill-formed term for each check -/

/-- R90: bits 7:4 set. -/
theorem test_reserved_low_refused : CmdWord.reservedZero 0x00000000000000F1#64 = false := by decide
/-- R90: bits 63:48 set. -/
theorem test_reserved_high_refused : CmdWord.reservedZero 0x0001000000000001#64 = false := by decide
/-- R90: a word of R110 is in form. -/
theorem test_reserved_ok : CmdWord.reservedZero 0x0000FFFFFFFFFF07#64 = true := by decide
/-- R110: the list after WRITE_RANGE must have exactly `len` entries. -/
theorem test_stream_short_refused : AsmLine.wf (.writeRange 0x0010 2 [0x11]) = false := by decide
/-- R110: and no more. -/
theorem test_stream_long_refused : AsmLine.wf (.writeRange 0x0010 0 [0x11]) = false := by decide
/-- A raw word with a reserved bit set. -/
theorem test_raw_word_refused : AsmLine.wf (.word 0x0000000000000010#64) = false := by decide
/-- A program with one such line. -/
theorem test_program_refused :
    AsmLine.programWf [.enableWrite, .writeRange 0x0010 1 [], .waitWriteComplete] = false := by decide
/-- Program 2 of 95_test_vectors.md is in form. -/
theorem test_program_ok :
    AsmLine.programWf [.enableWrite, .writeRange 0x001E 2 [0x11, 0x22], .waitWriteComplete] = true := by decide

/-! ## Decoding: words written out from R90 and R92, one for every constructor -/

theorem test_decode_enableWrite : decodeWord (0#16 ++ 0#16 ++ 0#16 ++ 0#8 ++ 0b0000#4 ++ 0b0001#4 : BitVec 64) =
    .enableWrite 0 0 0 := by decide
theorem test_decode_disableWrite : decodeWord (0#16 ++ 0#16 ++ 0#16 ++ 0#8 ++ 0b0000#4 ++ 0b0010#4 : BitVec 64) =
    .disableWrite 0 0 0 := by decide
theorem test_decode_readStatus : decodeWord (0#16 ++ 0#16 ++ 0#16 ++ 0#8 ++ 0b0000#4 ++ 0b0011#4 : BitVec 64) =
    .readStatus 0 0 0 := by decide
theorem test_decode_writeStatus :
    decodeWord (0#16 ++ 0#16 ++ 0#16 ++ 0b10001100#8 ++ 0b0000#4 ++ 0b0100#4 : BitVec 64) =
    .writeStatus 0 0 0x8C := by decide
theorem test_decode_readByte :
    decodeWord (0#16 ++ 0#16 ++ 0b0000000100100011#16 ++ 0#8 ++ 0b0000#4 ++ 0b0101#4 : BitVec 64) =
    .readByte 0x0123 0 0 := by decide
theorem test_decode_writeByte :
    decodeWord (0#16 ++ 0#16 ++ 0b0000000100100011#16 ++ 0b10100101#8 ++ 0b0000#4 ++ 0b0110#4 : BitVec 64) =
    .writeByte 0x0123 0 0xA5 := by decide
theorem test_decode_readRange :
    decodeWord (0#16 ++ 0b0000000000000011#16 ++ 0b0000000000010000#16 ++ 0#8 ++ 0b0000#4 ++ 0b0111#4 : BitVec 64) =
    .readRange 0x0010 3 0 := by decide
theorem test_decode_writeRange :
    decodeWord (0#16 ++ 0b0000000000000010#16 ++ 0b0000000000010000#16 ++ 0#8 ++ 0b0000#4 ++ 0b1000#4 : BitVec 64) =
    .writeRange 0x0010 2 0 := by decide
theorem test_decode_waitWriteComplete :
    decodeWord (0#16 ++ 0#16 ++ 0#16 ++ 0#8 ++ 0b0000#4 ++ 0b1001#4 : BitVec 64) = .waitWriteComplete 0 0 0 := by decide
theorem test_decode_illegal0 : decodeWord 0x0000000000000000#64 = .illegal0 0 0 0 := by decide
theorem test_decode_illegalA : decodeWord 0x000000000000000A#64 = .illegalA 0 0 0 := by decide
theorem test_decode_illegalB : decodeWord 0x000000000000000B#64 = .illegalB 0 0 0 := by decide
theorem test_decode_illegalC : decodeWord 0x000000000000000C#64 = .illegalC 0 0 0 := by decide
theorem test_decode_illegalD : decodeWord 0x000000000000000D#64 = .illegalD 0 0 0 := by decide
theorem test_decode_illegalE : decodeWord 0x000000000000000E#64 = .illegalE 0 0 0 := by decide
theorem test_decode_illegalF : decodeWord 0x000000000000000F#64 = .illegalF 0 0 0 := by decide

/-- Every row of spec/opcode_table.json: its match value decodes to the row's mnemonic. -/
theorem test_table_mnemonics :
    (List.range 16).map (fun o => (decodeWord (BitVec.ofNat 64 o)).mnemonic) =
      ["ILLEGAL_0x0", "ENABLE_WRITE", "DISABLE_WRITE", "READ_STATUS", "WRITE_STATUS", "READ_BYTE", "WRITE_BYTE",
       "READ_RANGE", "WRITE_RANGE", "WAIT_WRITE_COMPLETE", "ILLEGAL_0xa", "ILLEGAL_0xb", "ILLEGAL_0xc", "ILLEGAL_0xd",
       "ILLEGAL_0xe", "ILLEGAL_0xf"] := by rfl

/-- The command words of Programs 1 to 3 of 95_test_vectors.md. -/
theorem test_encode_words :
    [AsmLine.enableWrite, .writeByte 0x0123 0xA5, .waitWriteComplete, .readByte 0x0123, .writeStatus 0x8C,
     .writeRange 0x001E 2 [0x11, 0x22], .readRange 0x001E 4].map asmWord =
      [0x0000000000000001#64, 0x000000000123A506#64, 0x0000000000000009#64, 0x0000000001230005#64,
       0x0000000000008C04#64, 0x00000002001E0008#64, 0x00000004001E0007#64] := by decide

/-- Program 2: WRITE_PAGED at 0x001E of 4 bytes with 32-byte pages is two chunks of two. -/
theorem test_write_paged : writePaged at25320a 0x001E [0x11, 0x22, 0x33, 0x44] =
    [.enableWrite, .writeRange 0x001E 2 [0x11, 0x22], .waitWriteComplete,
     .enableWrite, .writeRange 0x0020 2 [0x33, 0x44], .waitWriteComplete] := by decide

/-- R110: the text of a line. -/
theorem test_asm_text : asmText (.writeRange 16 2 [17, 34]) = "WRITE_RANGE 16, 2, [17, 34]" := by decide

/-- R110: a line with hex numbers and a comment, and lines that are refused: a list that is too short, a data byte of nine
bits, an unknown name. -/
theorem test_asm_read :
    asmRead at25320a "WRITE_RANGE 0x0010, 2, [0x11, 34] ; two bytes" = some [.writeRange 0x0010 2 [0x11, 0x22]] ∧
    asmRead at25320a "WRITE_RANGE 0x0010, 2, [0x11]" = none ∧ asmRead at25320a "WRITE_STATUS 0x100" = none ∧
    asmRead at25320a "ERASE" = none := by decide
/-- R111: a pseudo-instruction, and a blank line. -/
theorem test_asm_read_pseudo :
    asmRead at25320a "WRITE_STATUS_SYNC 0x8C" = some [.enableWrite, .writeStatus 0x8C, .waitWriteComplete] ∧
    asmRead at25320a "  ; nothing" = some [] := by decide

/-! ## The step and the fetch -/

/-- From reset, a presented WRITE_RANGE word is accepted: T7 step 1 (ASSERT, k 0, cs 0). -/
theorem test_first_step : place (step (State.reset.withFetchWord 64 0x0000000200100008)) = some (.assert, 0, false) := by
  decide
/-- X2: op 0x0 goes straight to the response. -/
theorem test_first_step_illegal : place (step (State.reset.withFetchWord 8 0)) = some (.resp, 0, false) := by decide
/-- The event of T7 step 1. -/
theorem test_first_event : (after (step (State.reset.withFetchWord 64 0x0000000200100008))).map State.trace =
    some [.cmd 0x8 0x0010 2 0] := by decide
/-- X7: `rst` and `cmd_valid` in the same step: `Rst`, and the command is not accepted. -/
theorem test_reset_first :
    (after (step { State.reset with inp := { Inputs.command (.writeByte 1 2 3) with rst := true } })).map
      (fun s => (s.st, s.trace)) = some (.idle, [.rst]) := by decide

/-! ## One step of each command (95_test_vectors.md 2.2 to 2.7) -/

/-- T7 step 5 to 6: position 2 of WRITE_RANGE leads to FETCH. -/
theorem test_writeRange_to_fetch :
    place (exec (.writeRange 0x0010 2 0) { ctl .xchg 0x8 2 with inp := Inputs.quiet.ack 0 }) = some (.fetch, 3, true) := by
  decide
/-- T7 step 9: the last byte of the frame leads to DEASSERT. -/
theorem test_writeRange_last :
    (after (exec (.writeRange 0x0010 2 0) { ctl .xchg 0x8 4 with inp := Inputs.quiet.ack 0x77 })).map
      (fun s => (s.st, s.k, s.trace)) = some (.deassert, 5, [.xc 0x11 0x77]) := by decide
/-- T9: WRITE_RANGE of length 0 ends after the address and takes no write-data byte. -/
theorem test_writeRange_empty :
    place (exec (.writeRange 0x0010 0 0) { ctl .xchg 0x8 2 with len := 0, inp := Inputs.quiet.ack 0 }) =
      some (.deassert, 3, true) := by decide
/-- T1 step 6: READ_BYTE delivers the fourth received byte. -/
theorem test_readByte_delivers :
    (after (exec (.readByte 0x0123 0 0) { ctl .xchg 0x5 3 with inp := Inputs.quiet.ack 0x5A })).map
      (fun s => (s.st, s.k, s.rbuf)) = some (.deliver, 3, 0x5A) := by decide
/-- T1 step 7: after the delivery the frame ends. -/
theorem test_readByte_then_ends :
    (after (exec (.readByte 0x0123 0 0) { ctl .deliver 0x5 3 with rbuf := 0x5A, inp := Inputs.quiet.takeRd })).map
      (fun s => (s.st, s.k, s.trace)) = some (.deassert, 4, [.rd 0x5A]) := by decide
/-- T4: READ_RANGE of length 2 goes on to the next exchange after the first delivery. -/
theorem test_readRange_next :
    place (exec (.readRange 0x0010 2 0) { ctl .deliver 0x7 3 with inp := Inputs.quiet.takeRd }) = some (.xchg, 4, true) := by
  decide
/-- T3: WRITE_BYTE sends the address high byte at position 1. -/
theorem test_writeByte_address :
    (after (exec (.writeByte 0x0123 0 0xA5) { ctl .xchg 0x6 1 with addr := 0x0123, inp := Inputs.quiet.ack 9 })).map
      State.trace = some [.xc 0x01 9] := by decide
/-- S6: WRITE_STATUS sends its value verbatim. -/
theorem test_writeStatus_verbatim :
    (after (exec (.writeStatus 0 0 0xFF) { ctl .xchg 0x4 1 with cdata := 0xFF, inp := Inputs.quiet.ack 9 })).map
      (fun s => (s.st, s.trace)) = some (.deassert, [.xc 0xFF 9]) := by decide
/-- S2: READ_STATUS delivers the status byte unmasked. -/
theorem test_readStatus_unmasked :
    (after (exec (.readStatus 0 0 0) { ctl .xchg 0x3 1 with inp := Inputs.quiet.ack 0xFF })).map
      (fun s => (s.st, s.rbuf)) = some (.deliver, 0xFF) := by decide
/-- WE1: ENABLE_WRITE sends 0x06 and its frame is done. -/
theorem test_enableWrite_byte :
    (after (exec (.enableWrite 0 0 0) { ctl .xchg 0x1 0 with inp := Inputs.quiet.ack 0xC3 })).map
      (fun s => (s.st, s.k, s.trace)) = some (.deassert, 1, [.xc 0x06 0xC3]) := by decide
/-- WE2: DISABLE_WRITE sends 0x04. -/
theorem test_disableWrite_byte :
    (after (exec (.disableWrite 0 0 0) { ctl .xchg 0x2 0 with inp := Inputs.quiet.ack 0xC3 })).map State.trace =
      some [.xc 0x04 0xC3] := by decide
/-- WE3: a fault at position 0. -/
theorem test_enableWrite_fault :
    (after (exec (.enableWrite 0 0 0) { ctl .xchg 0x1 0 with inp := Inputs.quiet.nack })).map
      (fun s => (s.st, s.fault, s.trace)) = some (.deassert, true, [.xcFault 0x06]) := by decide
/-- W4: a polled 0xFE ends the wait. -/
theorem test_wait_ends :
    (after (exec (.waitWriteComplete 0 0 0) { ctl .deassert 0x9 2 with sr := 0xFE })).map
      (fun s => (s.st, s.code, s.cs)) = some (.resp, codeOk, false) := by decide
/-- R197: a polled 0x01 continues it, with chip-select inactive. -/
theorem test_wait_continues :
    place (exec (.waitWriteComplete 0 0 0) { ctl .deassert 0x9 2 with sr := 0x01 }) = some (.pause, 2, false) := by decide
/-- W6: a fault wins over the status byte. -/
theorem test_wait_fault :
    (after (exec (.waitWriteComplete 0 0 0) { ctl .deassert 0x9 1 with sr := 0x01, fault := true })).map
      (fun s => (s.st, s.code)) = some (.resp, codeTransportFault) := by decide
/-- X1: the illegal op 0xF responds ILLEGAL_OP. -/
theorem test_illegalF :
    (after (exec (.illegalF 0 0 0) (ctl .idle 0 0))).map (fun s => (s.st, s.code, s.cs)) =
      some (.resp, codeIllegalOp, false) := by decide
/-- S8: a hold in DELIVER changes nothing. -/
theorem test_hold : after (exec (.readStatus 0 0 0) (ctl .deliver 0x3 1)) = some (ctl .deliver 0x3 1) := by rfl

/-! ## Status decoding (95_test_vectors.md 2.4) -/

theorem test_status_decode : [0xFF#8, 0x0C#8, 0x70#8, 0x8C#8].map statusDecode =
    [⟨true, true, 3, true⟩, ⟨false, false, 3, false⟩, ⟨false, false, 0, false⟩, ⟨false, false, 3, true⟩] := by decide
theorem test_status_value : [statusValue 0 false, statusValue 1 false, statusValue 2 true, statusValue 3 true] =
    [0x00#8, 0x04#8, 0x88#8, 0x8C#8] := by decide

/-! ## The device contract on the AT25320A values -/

/-- T8: the write wraps inside the page. -/
theorem test_page_wrap :
    (deviceComplete at25320a 0 (deviceFrame at25320a 0 [0x02, 0x00, 0x1E, 0x11, 0x22, 0x33, 0x44]
      { restDevice with wel := true })).mem = [(0x00, 0x33), (0x01, 0x44), (0x1E, 0x11), (0x1F, 0x22)] := by decide
/-- Program 3: after WRITE_STATUS 0x8C completes the status reads 0x8C. -/
theorem test_status_write :
    deviceStatus (deviceComplete at25320a 0 (deviceFrame at25320a 0 [0x01, 0x8C] { restDevice with wel := true })) =
      0x8C := by decide
/-- Program 3: a write at level 3 leaves the array alone. -/
theorem test_protected_write :
    (deviceComplete at25320a 0 (deviceFrame at25320a 0 [0x02, 0x00, 0x00, 0x5A]
      { restDevice with wel := true, bp := 3, mem := [(0, 0x77)] })).mem = [(0, 0x77)] := by decide
/-- R65: the status of a busy device with the latch set is 0x03 (Program 1). -/
theorem test_busy_status :
    deviceReply at25320a 0 [0x05] { restDevice with wel := true, pending := some (.data 0 []) } = 0x03 := by decide
/-- T2: address 0xFFFF on a 4096-byte device reads mem[0x0FFF]. -/
theorem test_address_masked :
    deviceReply at25320a 0 [0x03, 0xFF, 0xFF] { restDevice with mem := [(0x0FFF, 0x5A)] } = 0x5A := by decide

/-- R79: what a device answers in the rest of a frame that its reset cut is any value (log 17). -/
theorem test_reset_cuts_frame (d : Device) (f : DevFrame) (h : d.frame = some f) :
    deviceAnswer at25320a 1 (deviceReset at25320a 0 d) = Config.free .rx 1 8 := by
  simp [deviceAnswer, deviceReset, h]
/-- The ports that follow an ended script: the repeated list over again, or any values (log 1). -/
theorem test_later :
    (nextInputs { State.reset with later := .repeats [Inputs.quiet.takeRd, Inputs.quiet] }).inp.rdReady = true ∧
      (nextInputs State.reset).inp = Inputs.free 0 := ⟨rfl, rfl⟩

/-- R250: a write in progress completes in the wait and clears the latch; a wait with no write in progress leaves it. -/
theorem test_wait_clears_enable :
    disciplined true true [.waitWriteComplete 0 0 0, .writeByte 1 0 2] = false ∧
      disciplined true false [.waitWriteComplete 0 0 0, .writeByte 1 0 2] = true := by decide

/-! ## Witnesses: for every statement with hypotheses, an instance that meets them together -/

theorem witness_ReservedBitsIgnored :
    0xFFFF0000000000F1#64 &&& 0x0000FFFFFFFFFF0F#64 = 0x0000000000000001#64 &&& 0x0000FFFFFFFFFF0F#64 := by decide
theorem witness_DecodingTotalByOp :
    0x0000123456789A01#64 &&& 0xF#64 = 0x1#64 &&& 0xF#64 ∧
      (Instr.enableWrite 1 2 3).mnemonic = (Instr.enableWrite 0 0 0).mnemonic := ⟨by decide, rfl⟩
theorem witness_FrameLengths :
    Command.ofOp 0x0#4 = none ∧ Command.ofOp 0xA#4 = none ∧ Command.ofOp 0xF#4 = none ∧ State.reset.st = .idle :=
  ⟨rfl, rfl, rfl, rfl⟩
theorem witness_ByteAndRangeFramesAgree :
    (0 : Pos) < frameLen .readByte 7 ∧ (3 : Pos) < frameLen .readByte 7 ∧ ¬(4 : Pos) < frameLen .readByte 7 := by decide
theorem witness_AddressBigEndian :
    ∀ c ∈ [Command.readByte, .writeByte, .readRange, .writeRange], 4 ≤ (frameLen c 1).toNat := by decide
theorem witness_StepRunsDueCommand_idle :
    ∃ s : State, s.inp.rst = false ∧ s.st = .idle ∧ s.inp.cmdValid = true :=
  ⟨{ State.reset with inp := Inputs.command (.readByte 0x0123 0 0) }, rfl, rfl, rfl⟩
theorem witness_StepRunsDueCommand_latched : (ctl .xchg 0x5 0).inp.rst = false ∧ (ctl .xchg 0x5 0).st ≠ .idle := by decide
theorem witness_PresentedWordRuns : (64 : Nat) ≤ 64 ∧ (8 : Nat) ≤ 64 := by decide
theorem witness_AtMostOneEventPerStep : ∃ s t : State, step s = .next t :=
  ⟨State.reset, _, rfl⟩
theorem witness_AcceptanceLatchesCommand :
    (ctl .idle 0 0).st = .idle ∧ (ctl .idle 0 0).inp.rst = false ∧ (ctl .idle 0 0).inp.cmdValid = false := by decide
/-- The boundary op codes of the acceptance rule: 0x1 and 0x9 are legal, 0x0 and 0xA are not. -/
theorem witness_acceptance_boundary :
    [Instr.enableWrite 0 0 0, .waitWriteComplete 0 0 0, .illegal0 0 0 0, .illegalA 0 0 0].map
      (fun i => (after (exec i (ctl .idle 0 0))).map State.st) =
      [some .assert, some .assert, some .resp, some .resp] := by decide
theorem witness_AssertStartsFrame : (ctl .assert 0x1 0).st = .assert := by decide
theorem witness_ExchangeDisposesOfByte :
    ∃ (i j l : Instr) (s t u : State),
      (Command.ofOp i.op = some .readByte ∧ s.op = i.op ∧ s.st = .xchg ∧ s.inp.xAck = true ∧ s.inp.xErr = false ∧
        rxUse .readByte s.k = .deliver) ∧
      (Command.ofOp j.op = some .waitWriteComplete ∧ t.op = j.op ∧ t.st = .xchg ∧ t.inp.xAck = true ∧
        t.inp.xErr = false ∧ rxUse .waitWriteComplete t.k = .poll) ∧
      (Command.ofOp l.op = some .enableWrite ∧ u.op = l.op ∧ u.st = .xchg ∧ u.inp.xAck = true ∧ u.inp.xErr = false ∧
        rxUse .enableWrite u.k = .discard) ∧
      (ctl .xchg 0x1 0).inp.xAck = false :=
  ⟨.readByte 0 0 0, .waitWriteComplete 0 0 0, .enableWrite 0 0 0,
   { ctl .xchg 0x5 3 with inp := Inputs.quiet.ack 1 }, { ctl .xchg 0x9 1 with inp := Inputs.quiet.ack 1 },
   { ctl .xchg 0x1 0 with inp := Inputs.quiet.ack 1 }, by decide⟩
theorem witness_TransportFaultStopsFrame :
    ∃ (i : Instr) (c : Command) (s : State), Command.ofOp i.op = some c ∧ s.st = .xchg ∧ s.inp.xAck = true ∧
      s.inp.xErr = true :=
  ⟨.writeRange 0 2 0, .writeRange, { ctl .xchg 0x8 3 with inp := Inputs.quiet.nack }, by decide⟩
theorem witness_FetchTakesWriteData :
    (ctl .fetch 0x8 3).st = .fetch ∧ CsInv (ctl .fetch 0x8 3) ∧ (ctl .fetch 0x8 3).inp.wdValid = false ∧
      ({ ctl .fetch 0x8 3 with inp := Inputs.quiet.offerWd 5 } : State).inp.wdValid = true := by decide
theorem witness_DeliverGivesByte :
    Command.ofOp (Instr.readRange 0 2 0).op = some .readRange ∧ (ctl .deliver 0x7 3).st = .deliver ∧
      CsInv (ctl .deliver 0x7 3) := by decide
/-- The three outcomes of Advance: the last position, a data position of WRITE_RANGE, and another position. -/
theorem witness_AdvanceVisitsNextPosition :
    (ctl .xchg 0x8 4).k < frameLen .writeRange (ctl .xchg 0x8 4).len ∧
      [(advance .writeRange (ctl .xchg 0x8 4)).st, (advance .writeRange (ctl .xchg 0x8 3)).st,
       (advance .writeRange (ctl .xchg 0x8 1)).st] = [.deassert, .fetch, .xchg] := by decide
theorem witness_DeassertEndsFrame :
    ({ ctl .deassert 0x1 0 with fault := true } : State).fault = true ∧ (ctl .deassert 0x9 2).fault = false ∧
      (ctl .deassert 0x9 2).st = .deassert ∧ (Instr.waitWriteComplete 0 0 0).op = 0x9#4 ∧
      ({ ctl .deassert 0x9 2 with sr := 1 } : State).sr.getLsbD 0 = true ∧ (ctl .deassert 0x9 2).sr.getLsbD 0 = false ∧
      (Instr.enableWrite 0 0 0).op ≠ 0x9#4 := by decide
theorem witness_PauseRunsDelay : (ctl .pause 0x9 2).st = .pause ∧ CsInv (ctl .pause 0x9 2) := by decide
theorem witness_ResponseReturnsToIdle : (ctl .resp 0x1 1).st = .resp ∧ CsInv (ctl .resp 0x1 1) := by decide
theorem witness_ResetTakesPrecedence :
    ({ ctl .xchg 0x6 2 with inp := { Inputs.quiet with rst := true } } : State).inp.rst = true ∧
      ({ ctl .pause 0x9 2 with inp := { Inputs.quiet with rst := true } } : State).cs = false := by decide
/-- The hypothesis of the whole-command statements. -/
theorem witness_command_runs : State.reset.st = .idle := rfl
/-- The range statements' premise is met by byte lists of every length a word can name: 0, 1 and 65535 among them. -/
theorem witness_range_runs (n : Nat) (h : n ≤ 65535) :
    (List.replicate n ((0x11 : Byte), Inputs.quiet, Inputs.quiet)).length ≤ 65535 ∧
    (List.replicate n ((0x11 : Byte), (0x22 : Byte), Inputs.quiet, Inputs.quiet)).length ≤ 65535 := by
  simp only [List.length_replicate]; exact ⟨h, h⟩
/-- Polls that answer `v`, with nothing else happening in them. -/
def poll (v : Byte) : Poll := ⟨0, v, .quiet, .quiet, .quiet, .quiet, .quiet⟩
theorem witness_wait_runs :
    (∀ p ∈ [poll 0x03, poll 0x01], p.status.getLsbD 0 = true) ∧ (poll 0xFE).status.getLsbD 0 = false := by decide
/-- A WAIT_WRITE_COMPLETE from reset on a device that reads busy for ever. -/
theorem witness_WaitPollsForever : ∃ (polls : List Poll) (s : State),
    s.st = .idle ∧ s.inp.rst = false ∧ s.inp.cmdValid = true ∧ s.inp.cmdOp = 0x9 ∧ polls ≠ [] ∧
      (∀ p ∈ polls, p.status.getLsbD 0 = true ∧ ∀ x ∈ p.busy, x.rst = false) ∧
      s.script = polls.flatMap Poll.busy ∧ s.later = .repeats (polls.flatMap Poll.busy) :=
  ⟨[poll 0x03, poll 0x01],
   { State.reset with
      inp := Inputs.command (.waitWriteComplete 0 0 0), script := [poll 0x03, poll 0x01].flatMap Poll.busy,
      later := .repeats ([poll 0x03, poll 0x01].flatMap Poll.busy) },
   rfl, rfl, rfl, rfl, by decide, by decide, rfl, rfl⟩
theorem witness_FaultReachesHost :
    Command.ofOp (Instr.waitWriteComplete 0 0 0).op = some .waitWriteComplete ∧ (ctl .xchg 0x9 1).st = .xchg := by decide
theorem witness_ChipSelectFollowsState :
    (∃ s t : State, CsInv s ∧ step s = .next t) ∧
      ∃ t, core.run 2 { State.reset with inp := Inputs.command (.readByte 3 0 0), script := [], later := .repeats [] } =
        .next t ∧ t.cs = true :=
  ⟨⟨ctl .assert 0x5 0, _, rfl, rfl⟩, _, rfl, rfl⟩
/-- A state in the middle of a frame whose position and trace are in order. -/
def midFrame : State :=
  { ctl .xchg 0x8 1 with trace := [.cmd 0x8 0x0010 2 0, .csOn, .xc 0x02 0], inp := Inputs.quiet.ack 0 }
theorem witness_FramePositionStaysInRange : ∃ s t : State, PosInv s ∧ step s = .next t :=
  ⟨midFrame, _, ⟨.writeRange, by decide, by decide, rfl⟩, rfl⟩
theorem witness_TraceStaysInOrder : PosInv midFrame ∧ TraceInv midFrame :=
  ⟨⟨.writeRange, by decide, by decide, rfl⟩, by decide⟩
theorem witness_DeviceDataStaysInForm :
    ∃ s t : State, DeviceInv Config.device s.dev ∧ step s = .next t := by
  refine ⟨{ ctl .xchg 0x8 3 with dev := { restDevice with
    pending := some (.data 0 []), frame := some ⟨true, false, some wireWriteData, 2, 0, 0, []⟩ } }, _, ⟨?_, ?_, ?_, ?_⟩, rfl⟩
  · exact ⟨List.Pairwise.nil, by simp [restDevice]⟩
  · simp [restDevice]
  · intro p hp
    cases hp
    exact ⟨Nat.zero_mod _, memSize_pos _, List.Pairwise.nil, by simp⟩
  · intro f hf
    cases hf
    exact ⟨by simp, ⟨List.Pairwise.nil, by simp⟩, fun _ _ => memSize_pos _⟩
/-- Two machines at IDLE that differ in the registers an earlier command left. -/
theorem witness_CommandsAreStateless : ∃ (s u t : State), s.st = .idle ∧ s.rbuf ≠ u.rbuf ∧
    u = { s with op := u.op, addr := u.addr, len := u.len, cdata := u.cdata, k := u.k, wbuf := u.wbuf, rbuf := u.rbuf,
                 sr := u.sr, fault := u.fault, code := u.code } ∧ core.run 3 s = .next t :=
  ⟨{ State.reset with inp := Inputs.command (.enableWrite 0 0 0), later := .repeats [] },
   { State.reset with inp := Inputs.command (.enableWrite 0 0 0), later := .repeats [], rbuf := 0xA5, k := 4, fault := true },
   _, rfl, by decide, rfl, rfl⟩
theorem witness_CommandPortsIgnoredWhileBusy : (ctl .xchg 0x7 3).st ≠ .idle := by decide
theorem witness_HeldExchangeHoldsForever :
    ∃ s : State, s.st = .xchg ∧ s.cs = true ∧ (∃ c, Command.ofOp s.op = some c) ∧
      (∀ x ∈ s.inp :: s.script, x.rst = false ∧ x.xAck = false) ∧
      (∀ m, ∀ x ∈ s.later.refill m, x.rst = false ∧ x.xAck = false) :=
  ⟨{ ctl .xchg 0x6 0 with script := [{ Inputs.quiet with devDone := true }], later := .repeats [Inputs.quiet] }, rfl, rfl,
   ⟨.writeByte, by decide⟩, by decide, by intro _ x hx; cases List.mem_singleton.mp hx; exact ⟨rfl, rfl⟩⟩
/-- A command step at the end of a frame that the contract gives an effect. -/
theorem witness_CommandStepFrame : ∃ (i : Instr) (s t : State), exec i s = .next t ∧ s.st = .deassert ∧
    ∀ f, s.dev.frame = some f → f.cut = false ∧ (f.late = false ∨ f.opcode = some 0x05#8 ∧ f.count = 1) ∧
      ((f.opcode = some 0x06#8 ∨ f.opcode = some 0x04#8) ∧ f.count = 0 ∨
        (f.opcode = some 0x05#8 ∨ f.opcode = some 0x01#8) ∧ f.count = 1 ∨
        (f.opcode = some 0x03#8 ∨ f.opcode = some 0x02#8) ∧ 2 ≤ f.count) :=
  ⟨.enableWrite 0 0 0,
   { ctl .deassert 0x1 1 with dev := { restDevice with frame := some ⟨false, false, some 0x06#8, 0, 0, 0, []⟩ } }, _, rfl, rfl,
   by intro f hf; cases hf; decide⟩
theorem witness_StepsNeverStop : PosInv (ctl .deliver 0x7 4) := ⟨.readRange, by decide, by decide, by decide, rfl⟩
/-- The edges of the levels: the upper quarter and the upper half (R72, on the AT25320A values). -/
theorem witness_ProtectionIsMonotone :
    (0 : Nat) < memSize at25320a ∧ (1 : BitVec 2) ≤ 2 ∧
      [3071, 3072, 4095].map (prot at25320a 1) = [false, true, true] ∧
      [2047, 2048, 4095].map (prot at25320a 2) = [false, true, true] := by decide
/-- A data write, a status write and no write in progress when the device is reset. -/
theorem witness_DeviceResetKeepsArray :
    restDevice.pending = none ∧
      ({ restDevice with pending := some (.status 0) } : Device).pending = some (.status 0) ∧
      ({ restDevice with pending := some (.data 32 [(1, 5)]) } : Device).pending = some (.data 32 [(1, 5)]) ∧
      (∀ c ∈ [((1 : Nat), (5#8))], 32 ≠ 32 + c.1) := ⟨rfl, rfl, rfl, by decide⟩
theorem witness_not_busy : deviceBusy restDevice = false ∧ cellsRising restDevice.mem := by decide
theorem witness_write_enabled :
    ({ restDevice with wel := true } : Device).wel = true ∧ restDevice.wel = false ∧ at25320a.requiresWel = true := by decide
/-- Inside the array at its last byte, and past it. -/
theorem witness_ReadDataFrame :
    (0xFFFE#16).toNat % memSize at25320a + [0x00#8].length < memSize at25320a ∧
      ¬(0xFFFF#16).toNat % memSize at25320a + [0x00#8].length < memSize at25320a := by decide
theorem witness_WriteDataFrame :
    deviceBusy { restDevice with wel := true } = false ∧ cellsRising ({ restDevice with wel := true } : Device).mem ∧
      [0x11#8] ≠ [] ∧ ({ restDevice with wel := true } : Device).wel = true := by decide
/-- A range that ends at the page's last byte. -/
theorem witness_RangeRoundTrip :
    deviceBusy restDevice = false ∧ cellsRising restDevice.mem ∧ pageSafe at25320a (0x001E#16).toNat [0x11#8, 0x22#8].length ∧
      [0x00#8].length < [0x11#8, 0x22#8].length ∧
      (∀ i, i < [0x11#8, 0x22#8].length → prot at25320a restDevice.bp ((0x001E#16).toNat % memSize at25320a + i) = false) := by
  decide
theorem witness_ByteRoundTrip : ∃ (j : Nat) (a : Addr) (v : Byte) (s : State) (rest : List Inputs),
    s.st = .idle ∧ deviceBusy s.dev = false ∧ cellsRising s.dev.mem ∧
      prot Config.device s.dev.bp (a.toNat % memSize Config.device) = false ∧
      s.inp :: s.script = byteRoundTripInputs j a v ++ rest :=
  ⟨2, 0x0123, 0xA5,
   { State.reset with
      dev := restDevice, inp := Inputs.command (.enableWrite 0 0 0), script := (byteRoundTripInputs 2 0x0123 0xA5).tail },
   [], rfl, rfl, List.Pairwise.nil, rfl, rfl⟩
theorem witness_StatusValueDecodes : 0x85#8 &&& 0x8F#8 = 0xF5#8 &&& 0x8F#8 := by decide
theorem witness_PagedWriteIsDisciplined : [0x11#8, 0x22#8].length < 65536 := by decide

end Sys2Proof.Tests
end

section
/-! SUPPORT. Proofs about the state: one relation that says everything a step of a command can do, and from it the
invariants of the controller (10_state.md R25, R45, R46), the trace and the frame of a step. -/

namespace Sys2Proof.Machine

/-! ### What one step of a command can do -/

/-- The controller waits for a handshake partner that is absent (00_scope.md R14, R215). -/
def Waits (s : State) : Prop :=
  match s.st with
  | .fetch => s.inp.wdValid = false
  | .xchg => s.inp.xAck = false
  | .deliver => s.inp.rdReady = false
  | .pause => s.inp.dDone = false
  | .resp => s.inp.rspReady = false
  | .idle | .assert | .deassert => False

/-- The frame is over: `CsOff`, the select line inactive, and the device's effect at the end of a frame (R128). -/
def frameEnded (s : State) : State :=
  { s.emit .csOff with cs := false, dev := deviceCsOff Config.device s.draws s.dev }

/-- Everything one step of the command `i` can do, with the condition under which it does so (40_transaction.md R120
to R129, 44_poll_fsm.md R192, R193). `exec_move` says that a step of `exec` is one of these. -/
inductive CommandMove (i : Instr) (s : State) : State → Prop
  | hold (hw : Waits s) : CommandMove i s s
  | acceptLegal (c : Command) (hs : s.st = .idle) (hc : Command.ofOp i.op = some c) :
      CommandMove i s (acceptLegal i.op i.addr i.len i.data s)
  | acceptIllegal (hs : s.st = .idle) (hc : Command.ofOp i.op = none) :
      CommandMove i s (acceptIllegal i.op i.addr i.len i.data s)
  | assert (hs : s.st = .assert) : CommandMove i s (assertStep s)
  | fetch (hs : s.st = .fetch) (hv : s.inp.wdValid = true) :
      CommandMove i s { s.emit (.wd s.inp.wdData) with wbuf := s.inp.wdData, st := .xchg }
  | fault (c : Command) (hs : s.st = .xchg) (hc : Command.ofOp i.op = some c) (ha : s.inp.xAck = true)
      (he : s.inp.xErr = true) : CommandMove i s (transportFault c s)
  | receive (c : Command) (hs : s.st = .xchg) (hc : Command.ofOp i.op = some c) (ha : s.inp.xAck = true)
      (he : s.inp.xErr = false) (hu : rxUse c s.k = .deliver) :
      CommandMove i s { exchanged c s with rbuf := s.rx, st := .deliver }
  | poll (c : Command) (hs : s.st = .xchg) (hc : Command.ofOp i.op = some c) (ha : s.inp.xAck = true)
      (he : s.inp.xErr = false) (hu : rxUse c s.k = .poll) :
      CommandMove i s (advance c { exchanged c s with sr := s.rx })
  | discard (c : Command) (hs : s.st = .xchg) (hc : Command.ofOp i.op = some c) (ha : s.inp.xAck = true)
      (he : s.inp.xErr = false) (hu : rxUse c s.k = .discard) : CommandMove i s (advance c (exchanged c s))
  | deliver (c : Command) (hs : s.st = .deliver) (hc : Command.ofOp i.op = some c) (hr : s.inp.rdReady = true) :
      CommandMove i s (advance c (s.emit (.rd s.rbuf)))
  | failed (hs : s.st = .deassert) (hf : s.fault = true) :
      CommandMove i s { frameEnded s with code := codeTransportFault, st := .resp }
  | pollAgain (hs : s.st = .deassert) (hf : s.fault = false) (hc : Command.ofOp i.op = some .waitWriteComplete)
      (hb : statusRdy s.sr = true) : CommandMove i s { frameEnded s with st := .pause }
  | finished (hs : s.st = .deassert) (hf : s.fault = false)
      (hb : Command.ofOp i.op = some .waitWriteComplete → statusRdy s.sr = false) :
      CommandMove i s { frameEnded s with code := codeOk, st := .resp }
  | pause (hs : s.st = .pause) (hd : s.inp.dDone = true) :
      CommandMove i s { s.emit (.dly pollDelayUs) with k := 0, st := .assert }
  | respond (hs : s.st = .resp) (hr : s.inp.rspReady = true) :
      CommandMove i s { s.emit (.rsp s.code) with st := .idle }

section
variable {i : Instr} {c : Command} {s : State}

theorem fetchStep_move (hs : s.st = .fetch) : CommandMove i s (fetchStep s) := by
  rcases fetchStep_cases s with ⟨hv, he⟩ | ⟨hv, he⟩ <;> rw [he]
  · exact .hold (by simpa only [Waits, hs] using hv)
  · exact .fetch hs hv

theorem xchgStep_move (hs : s.st = .xchg) (hc : Command.ofOp i.op = some c) : CommandMove i s (xchgStep c s) := by
  rcases xchgStep_cases c s with ⟨ha, h⟩ | ⟨ha, he, h⟩ | ⟨ha, he, hu, h⟩ | ⟨ha, he, hu, h⟩ | ⟨ha, he, hu, h⟩ <;> rw [h]
  · exact .hold (by simpa only [Waits, hs] using ha)
  · exact .fault c hs hc ha he
  · exact .receive c hs hc ha he hu
  · exact .poll c hs hc ha he hu
  · exact .discard c hs hc ha he hu

theorem deliverStep_move (hs : s.st = .deliver) (hc : Command.ofOp i.op = some c) :
    CommandMove i s (deliverStep c s) := by
  rcases deliverStep_cases c s with ⟨hr, he⟩ | ⟨hr, he⟩ <;> rw [he]
  · exact .hold (by simpa only [Waits, hs] using hr)
  · exact .deliver c hs hc hr

theorem deassertStep_move {wait : Bool} (hs : s.st = .deassert)
    (hw : wait = true ↔ Command.ofOp i.op = some .waitWriteComplete) : CommandMove i s (deassertStep wait s) := by
  rcases deassertStep_cases wait s with ⟨hf, he⟩ | ⟨hf, ht, hb, he⟩ | ⟨hf, hb, he⟩ <;> rw [he]
  · exact .failed hs hf
  · exact .pollAgain hs hf (hw.1 ht) hb
  · exact .finished hs hf (fun hc => hb (hw.2 hc))

theorem pauseStep_move (hs : s.st = .pause) : CommandMove i s (pauseStep s) := by
  rcases pauseStep_cases s with ⟨hd, he⟩ | ⟨hd, he⟩ <;> rw [he]
  · exact .hold (by simpa only [Waits, hs] using hd)
  · exact .pause hs hd

theorem respStep_move (hs : s.st = .resp) : CommandMove i s (respStep s) := by
  rcases respStep_cases s with ⟨hr, he⟩ | ⟨hr, he⟩ <;> rw [he]
  · exact .hold (by simpa only [Waits, hs] using hr)
  · exact .respond hs hr

end

theorem exec_move_legal {i : Instr} {c : Command} {s t : State} (hc : Command.ofOp i.op = some c)
    (h : exec i s = .next t) : CommandMove i s t := by
  obtain ⟨hop, hex⟩ := exec_legal hc s
  rw [hex] at h
  have hwait : (c == Command.waitWriteComplete) = true ↔ Command.ofOp i.op = some .waitWriteComplete := by
    rw [hc, beq_iff_eq, Option.some.injEq]
  rcases commandStep_cases c i.addr i.len i.data s with
    ⟨hs, he⟩ | ⟨hs, he⟩ | ⟨hs, he⟩ | ⟨hs, he⟩ | ⟨hs, he⟩ | ⟨hs, he⟩ | ⟨hs, he⟩ | ⟨hs, he⟩ <;>
    (rw [he] at h; cases h)
  · exact hop ▸ .acceptLegal c hs hc
  · exact .assert hs
  · exact fetchStep_move hs
  · exact xchgStep_move hs hc
  · exact deliverStep_move hs hc
  · exact deassertStep_move hs hwait
  · exact pauseStep_move hs
  · exact respStep_move hs

theorem exec_move_illegal {i : Instr} {s t : State} (hc : Command.ofOp i.op = none)
    (h : exec i s = .next t) : CommandMove i s t := by
  rw [exec_illegal hc] at h
  rcases illegalStep_cases i.op i.addr i.len i.data s with
    ⟨hs, he⟩ | ⟨hs, he⟩ | ⟨hs, he⟩ | ⟨hs, he⟩ | ⟨hs, he⟩ | ⟨hs, he⟩ | ⟨hs, he⟩ <;>
    (rw [he] at h; cases h)
  · exact .acceptIllegal hs hc
  · exact .assert hs
  · exact fetchStep_move hs
  · exact deassertStep_move hs (by simp [hc])
  · exact pauseStep_move hs
  · exact respStep_move hs

/-- The inversion of a command's step: every proof below goes through it and never unfolds `exec`. -/
theorem exec_move {i : Instr} {s t : State} (h : exec i s = .next t) : CommandMove i s t := by
  cases hc : Command.ofOp i.op with
  | some c => exact exec_move_legal hc h
  | none => exact exec_move_illegal hc h

/-! ### Invariants of the controller -/

/-- The command that is due outside IDLE is the latched one (R33). -/
theorem fetchInstr_op {s : State} {i : Instr} (h : fetchInstr s = some i) (hs : s.st ≠ .idle) : i.op = s.op := by
  rw [fetchInstr_latched hs] at h
  cases h
  exact (decodePorts_fields _ _ _ _).1

section
variable {M : Host.Core}

/-- A run of `n + 1` steps that answers a next state is a step and a run of `n`. -/
theorem run_succ_eq_next {n : Nat} {s t : M.State} :
    M.run (n + 1) s = .next t ↔ ∃ s', M.step s = .next s' ∧ M.run n s' = .next t := by
  rw [Host.Core.run]
  cases M.step s <;> simp

/-- A property that every step keeps holds at the end of every run from a state that has it. -/
theorem run_keeps {p : M.State → Prop} (hstep : ∀ s t, p s → M.step s = .next t → p t) (n : Nat) {s t : M.State}
    (hp : p s) (h : M.run n s = .next t) : p t := by
  induction n generalizing s with
  | zero => cases h; exact hp
  | succ n ih =>
    obtain ⟨s', hs', hrun⟩ := run_succ_eq_next.1 h
    exact ih (hstep s s' hp hs') hrun

end

/-! #### The frame position (R25, R104) -/

theorem frameLen_pos (c : Command) (len : Len) : 0 < frameLen c len := by
  cases c <;> simp only [frameLen] <;> bv_omega

/-- WRITE_RANGE is the one command that fetches, from position 3 on (R107). -/
theorem needsFetch_iff {c : Command} {k : Pos} : needsFetch c k = true ↔ c = .writeRange ∧ 3 ≤ k := by
  simp [needsFetch]

/-- A position inside the frame that is not its last one is followed by another inside the frame. -/
theorem nextPos_lt {k n : Pos} (h : k < n) (hne : k + 1 ≠ n) : k + 1 < n := by bv_omega

/-- Advance keeps the position inside the frame, or ends the frame at its length (R125). -/
theorem advance_keeps_posInv {c : Command} {s : State} (hc : Command.ofOp s.op = some c)
    (hk : s.k < frameLen c s.len) (hf : s.fault = false) : PosInv (advance c s) := by
  by_cases hend : s.k + 1 = frameLen c s.len
  · have hst : (advance c s).st = .deassert := by rw [advance_st, if_pos hend]
    simp only [PosInv, hst]
    exact ⟨c, hc, by rw [advance_fault, hf]; exact hend⟩
  · have hlt := nextPos_lt hk hend
    by_cases hn : needsFetch c (s.k + 1) = true
    · have hst : (advance c s).st = .fetch := by rw [advance_st, if_neg hend, if_pos hn]
      obtain ⟨rfl, h3⟩ := needsFetch_iff.1 hn
      simp only [PosInv, hst]
      exact ⟨hc, h3, hlt, hf⟩
    · have hst : (advance c s).st = .xchg := by rw [advance_st, if_neg hend, if_neg hn]
      simp only [PosInv, hst]
      exact ⟨c, hc, hlt, hf⟩

section
variable {s : State}

theorem posInv_of_idle (hs : s.st = .idle) : PosInv s := by simp only [PosInv, hs]

theorem posInv_assert_k (hp : PosInv s) (hs : s.st = .assert) : s.k = 0 := by
  simp only [PosInv, hs] at hp
  obtain ⟨-, hk, -⟩ := hp
  exact hk

theorem posInv_xchg {c : Command} (hp : PosInv s) (hs : s.st = .xchg) (hc : Command.ofOp s.op = some c) :
    s.k < frameLen c s.len ∧ s.fault = false := by
  simp only [PosInv, hs] at hp
  obtain ⟨c', hc', hk, hf⟩ := hp
  cases hc.symm.trans hc'
  exact ⟨hk, hf⟩

theorem posInv_deliver {c : Command} (hp : PosInv s) (hs : s.st = .deliver) (hc : Command.ofOp s.op = some c) :
    rxUse c s.k = .deliver ∧ s.k < frameLen c s.len ∧ s.fault = false := by
  simp only [PosInv, hs] at hp
  obtain ⟨c', hc', hu, hk, hf⟩ := hp
  cases hc.symm.trans hc'
  exact ⟨hu, hk, hf⟩

theorem posInv_deassert_legal (hp : PosInv s) (hs : s.st = .deassert) : Command.ofOp s.op ≠ none := by
  simp only [PosInv, hs] at hp
  obtain ⟨c, hc, -⟩ := hp
  simp [hc]

end

/-- A step of the command that is due keeps the frame position in range. -/
theorem exec_keeps_posInv {i : Instr} {s t : State} (hi : s.st ≠ .idle → i.op = s.op) (hp : PosInv s)
    (h : exec i s = .next t) : PosInv t := by
  have due {st : St} (hs : s.st = st) (hne : st ≠ .idle) : Command.ofOp i.op = Command.ofOp s.op := by
    rw [hi (hs ▸ hne)]
  cases exec_move h with
  | hold => exact hp
  | acceptLegal c hs hc => exact ⟨⟨c, hc⟩, rfl, rfl⟩
  | acceptIllegal hs hc => exact ⟨show codeIllegalOp ≠ 3 by decide, iff_of_true rfl hc⟩
  | assert hs =>
    simp only [PosInv, hs] at hp
    obtain ⟨⟨c, hc⟩, hk, hf⟩ := hp
    exact ⟨c, hc, hk ▸ frameLen_pos c s.len, hf⟩
  | fetch hs =>
    simp only [PosInv, hs] at hp
    obtain ⟨hc, -, hk, hf⟩ := hp
    exact ⟨.writeRange, hc, hk, hf⟩
  | fault c hs hc =>
    rw [due hs (by decide)] at hc
    exact ⟨c, hc, (posInv_xchg hp hs hc).1⟩
  | receive c hs hc ha he hu =>
    rw [due hs (by decide)] at hc
    obtain ⟨hk, hf⟩ := posInv_xchg hp hs hc
    exact ⟨c, hc, hu, hk, hf⟩
  | poll c hs hc | discard c hs hc =>
    rw [due hs (by decide)] at hc
    obtain ⟨hk, hf⟩ := posInv_xchg hp hs hc
    exact advance_keeps_posInv hc hk hf
  | deliver c hs hc =>
    rw [due hs (by decide)] at hc
    obtain ⟨-, hk, hf⟩ := posInv_deliver hp hs hc
    exact advance_keeps_posInv hc hk hf
  | failed hs =>
    have hlegal : Command.ofOp s.op ≠ none := posInv_deassert_legal hp hs
    exact ⟨show codeTransportFault ≠ 3 by decide,
      iff_of_false (show codeTransportFault ≠ codeIllegalOp by decide) hlegal⟩
  | pollAgain hs hf hc => exact ⟨due hs (by decide) ▸ hc, hf⟩
  | finished hs =>
    have hlegal : Command.ofOp s.op ≠ none := posInv_deassert_legal hp hs
    exact ⟨show codeOk ≠ 3 by decide,
      iff_of_false (show codeOk ≠ codeIllegalOp by decide) hlegal⟩
  | pause hs =>
    simp only [PosInv, hs] at hp
    obtain ⟨hc, hf⟩ := hp
    exact ⟨⟨_, hc⟩, rfl, hf⟩
  | respond => trivial

/-- Settles O39: a reset step and a held step end in IDLE, and every other step is one of the command that is due. -/
theorem framePositionStaysInRange : Obligations.FramePositionStaysInRange := by
  intro s t hp h
  rcases step_cases h with ⟨-, rfl⟩ | ⟨-, hs, -, rfl⟩ | ⟨-, i, u, hi, hu, rfl⟩
  · trivial
  · exact hp
  · exact exec_keeps_posInv (s := deviceStep s) (t := u) (fetchInstr_op hi) hp hu

/-! ### At most one event per step (R34, R120) -/

/-- A step of a command emits nothing or appends one event. -/
theorem exec_trace {i : Instr} {s t : State} (h : exec i s = .next t) :
    t.trace = s.trace ∨ ∃ e, t.trace = s.trace ++ [e] := by
  cases exec_move h with
  | hold => exact .inl rfl
  | _ => exact .inr ⟨_, rfl⟩

/-- Settles O12: reset emits `Rst`, a held step nothing, and a command's step at most one event. -/
theorem atMostOneEventPerStep : Obligations.AtMostOneEventPerStep := by
  intro s t h
  rcases step_cases h with ⟨-, rfl⟩ | ⟨-, -, -, rfl⟩ | ⟨-, i, u, -, hu, rfl⟩
  · exact ⟨[.rst], rfl, le_rfl⟩
  · exact ⟨[], (List.append_nil _).symm, Nat.zero_le 1⟩
  · rcases exec_trace hu with he | ⟨e, he⟩
    · exact ⟨[], by simpa using he, Nat.zero_le 1⟩
    · exact ⟨[e], he, le_rfl⟩

/-! ### Chip-select follows the state (R45) -/

/-- Advance goes to a state inside the frame. -/
theorem inFrame_advance (c : Command) (s : State) : inFrame (advance c s).st = true := by
  rw [advance_st]
  split_ifs <;> rfl

theorem exec_keeps_csInv {i : Instr} {s t : State} (hcs : CsInv s) (h : exec i s = .next t) : CsInv t := by
  cases exec_move h with
  | hold => exact hcs
  | assert | failed | pollAgain | finished => rfl
  | acceptLegal _ hs | acceptIllegal hs | fetch hs | fault _ hs | receive _ hs | pause hs | respond hs =>
    exact hcs.trans (by rw [hs]; rfl)
  | poll _ hs | discard _ hs | deliver _ hs =>
    have hopen : s.cs = true := hcs.trans (by rw [hs]; rfl)
    exact hopen.trans (inFrame_advance _ _).symm

theorem step_keeps_csInv {s t : State} (hcs : CsInv s) (h : step s = .next t) : CsInv t := by
  rcases step_cases h with ⟨-, rfl⟩ | ⟨-, -, -, rfl⟩ | ⟨-, i, u, -, hu, rfl⟩
  · rfl
  · exact hcs
  · exact exec_keeps_csInv (s := deviceStep s) (t := u) hcs hu

/-- Settles O38: the step lemma, carried along every run from reset. -/
theorem chipSelectFollowsState : Obligations.ChipSelectFollowsState :=
  ⟨rfl, fun _ _ => step_keeps_csInv, fun n _ _ _ _ h =>
    run_keeps (M := core) (p := CsInv) (fun _ _ => step_keeps_csInv) n (show CsInv _ from rfl) h⟩

/-! ### The reset state (R44) -/

/-- The device that the controller finds at reset lists nothing and has no frame open; a write in progress there is
one of which nothing is known (R79). -/
theorem deviceInv_powerUp (P : DevParams) : DeviceInv P Device.powerUp := by
  refine ⟨⟨List.Pairwise.nil, by simp [Device.powerUp]⟩, by simp [Device.powerUp], ?_, by simp [Device.powerUp]⟩
  intro p hp
  obtain ⟨-, rfl⟩ : _ ∧ Pending.unknown = p := by simpa [Device.powerUp] using hp
  trivial

/-- Settles O37. -/
theorem resetMeetsInvariants : Obligations.ResetMeetsInvariants :=
  ⟨rfl, trivial, rfl, deviceInv_powerUp _⟩

/-- Settles O24: each output follows from IDLE and the inactive select line. -/
theorem resetStateOutputs : Obligations.ResetStateOutputs :=
  ⟨rfl, rfl, rfl, rfl, rfl, rfl, rfl, rfl, rfl⟩

/-! ### What a command's step leaves alone (R21 to R31, R57) -/

section
variable {i : Instr} {s t : State}

/-- The latched fields change at acceptance only (R21 to R24). -/
theorem exec_latched (hs : s.st ≠ .idle) (h : exec i s = .next t) :
    t.op = s.op ∧ t.addr = s.addr ∧ t.len = s.len ∧ t.cdata = s.cdata := by
  cases exec_move h with
  | acceptLegal _ hi | acceptIllegal hi => exact absurd hi hs
  | _ => exact ⟨rfl, rfl, rfl, rfl⟩

/-- The frame position moves at acceptance, with Advance, and for the next polling frame (R25). -/
theorem exec_k (hs : s.st = .assert ∨ s.st = .fetch ∨ s.st = .deassert ∨ s.st = .resp) (h : exec i s = .next t) :
    t.k = s.k := by
  cases exec_move h with
  | acceptLegal _ hi | acceptIllegal hi | poll _ hi | discard _ hi | deliver _ hi | pause hi => simp [hi] at hs
  | _ => rfl

/-- The write-data buffer is FETCH's (R26). -/
theorem exec_wbuf (hs : s.st ≠ .fetch) (h : exec i s = .next t) : t.wbuf = s.wbuf := by
  cases exec_move h with
  | fetch hi => exact absurd hi hs
  | _ => rfl

/-- The read-data buffer and the status byte are XCHG's (R27, R28). -/
theorem exec_rbuf_sr (hs : s.st ≠ .xchg) (h : exec i s = .next t) : t.rbuf = s.rbuf ∧ t.sr = s.sr := by
  cases exec_move h with
  | receive _ hi | poll _ hi => exact absurd hi hs
  | _ => exact ⟨rfl, rfl⟩

/-- The fault flag is XCHG's, and cleared at acceptance (R29). -/
theorem exec_fault (hx : s.st ≠ .xchg) (hs : s.st ≠ .idle) (h : exec i s = .next t) : t.fault = s.fault := by
  cases exec_move h with
  | acceptLegal _ hi | acceptIllegal hi => exact absurd hi hs
  | fault _ hi => exact absurd hi hx
  | _ => rfl

/-- The response code is decided at acceptance or at the end of the frame (R30). -/
theorem exec_code (hs : s.st ≠ .idle) (hd : s.st ≠ .deassert) (h : exec i s = .next t) : t.code = s.code := by
  cases exec_move h with
  | acceptIllegal hi => exact absurd hi hs
  | failed hi | finished hi => exact absurd hi hd
  | _ => rfl

/-- Chip-select is driven in ASSERT and DEASSERT (R31). -/
theorem exec_cs (ha : s.st ≠ .assert) (hd : s.st ≠ .deassert) (h : exec i s = .next t) : t.cs = s.cs := by
  cases exec_move h with
  | assert hi => exact absurd hi ha
  | failed hi | pollAgain hi | finished hi => exact absurd hi hd
  | _ => rfl

/-- The device sees chip-select and the exchanged bytes, and nothing else of a command. -/
theorem exec_dev (ha : s.st ≠ .assert) (hx : s.st ≠ .xchg) (hd : s.st ≠ .deassert) (h : exec i s = .next t) :
    t.dev = s.dev := by
  cases exec_move h with
  | assert hi => exact absurd hi ha
  | fault _ hi | receive _ hi | poll _ hi | discard _ hi => exact absurd hi hx
  | failed hi | pollAgain hi | finished hi => exact absurd hi hd
  | _ => rfl

/-- Before the end of the frame a command changes nothing of the device but its open frame (R61). -/
theorem exec_dev_frame_only (hd : s.st ≠ .deassert) (h : exec i s = .next t) :
    ∃ f, t.dev = { s.dev with frame := f } := by
  cases exec_move h with
  | failed hi | pollAgain hi | finished hi => exact absurd hi hd
  | _ => exact ⟨_, rfl⟩

/-- DEASSERT is where the device sees the frame end. -/
theorem exec_dev_deassert (hd : s.st = .deassert) (h : exec i s = .next t) :
    t.dev = deviceCsOff Config.device s.draws s.dev := by
  cases exec_move h with
  | failed | pollAgain | finished => rfl
  | hold hw => simp [Waits, hd] at hw
  | acceptLegal _ hi | acceptIllegal hi | assert hi | fetch hi | fault _ hi | receive _ hi | poll _ hi | discard _ hi
  | deliver _ hi | pause hi | respond hi => simp [hi] at hd

/-- The ports and the draw counter are not the command's. -/
theorem exec_ports (h : exec i s = .next t) :
    t.inp = s.inp ∧ t.script = s.script ∧ t.later = s.later ∧ t.draws = s.draws := by
  cases exec_move h <;> exact ⟨rfl, rfl, rfl, rfl⟩

end

/-- A frame of a shape the contract describes: the opcode of one of the six wire commands, and as many operand bytes
as it takes (R57 to R69). -/
def DevFrame.described (f : DevFrame) : Prop :=
  (f.opcode = some wireEnableWrite ∨ f.opcode = some wireDisableWrite) ∧ f.count = 0 ∨
    (f.opcode = some wireReadStatus ∨ f.opcode = some wireWriteStatus) ∧ f.count = 1 ∨
    (f.opcode = some wireReadData ∨ f.opcode = some wireWriteData) ∧ 2 ≤ f.count

/-- The effect of a described frame at its end is on the latch, the pending write and `busy`: no byte of the array
changes before the internal write completes (R62 to R69). -/
theorem frameEffect_mem (P : DevParams) (n : Nat) {f : DevFrame} (d : Device) (h : f.described)
    (hrs : ¬(f.opcode = some wireReadStatus ∧ f.count = 1)) : (frameEffect P n f d).mem = d.mem := by
  unfold frameEffect
  split_ifs with henable hdisable hstatus hen hread hnone hbusy hdata <;> try rfl
  exfalso
  rcases h with ⟨ho | ho, hc⟩ | ⟨ho | ho, hc⟩ | ⟨ho | ho, hc⟩
  · exact henable ⟨ho, hc⟩
  · exact hdisable ⟨ho, hc⟩
  · exact hrs ⟨ho, hc⟩
  · exact hstatus ⟨ho, hc⟩
  · exact hread ⟨ho, hc⟩
  · rcases Nat.lt_or_eq_of_le hc with hlt | heq
    · exact hdata ⟨ho, hlt⟩
    · exact hnone ⟨ho, heq.symm⟩

/-- A described frame that nothing cut and that did not begin while the device was busy, or that reads the status,
ends without changing a byte of the array (R57, R70, R212). -/
theorem deviceCsOff_mem (P : DevParams) (n : Nat) (d : Device)
    (h : ∀ f, d.frame = some f →
      f.cut = false ∧ (f.late = false ∨ f.opcode = some wireReadStatus ∧ f.count = 1) ∧ f.described) :
    (deviceCsOff P n d).mem = d.mem := by
  rcases deviceCsOff_cases P n d with
    ⟨-, he⟩ | ⟨f, hf, ⟨hcut, -⟩ | ⟨-, -, -, he⟩ | ⟨-, hrs, hlate, -⟩ | ⟨-, hrs, -, he⟩⟩
  · rw [he]
  · exact absurd hcut (by simp [(h f hf).1])
  · rw [he]
  · obtain ⟨-, hl | hl, -⟩ := h f hf
    · exact absurd hlate (by simp [hl])
    · exact absurd hl hrs
  · rw [he]
    exact frameEffect_mem P n { d with frame := none } (h f hf).2.2 hrs

/-- A command's step changes no byte of the array where the frame that may end in it is a described one. -/
theorem exec_mem {i : Instr} {s t : State} (h : exec i s = .next t)
    (hf : ∀ f, s.dev.frame = some f →
      f.cut = false ∧ (f.late = false ∨ f.opcode = some wireReadStatus ∧ f.count = 1) ∧ f.described) :
    t.dev.mem = s.dev.mem := by
  by_cases hd : s.st = .deassert
  · rw [exec_dev_deassert hd h]
    exact deviceCsOff_mem _ _ _ hf
  · obtain ⟨f, he⟩ := exec_dev_frame_only hd h
    rw [he]

/-- Settles O46, one lemma per register and part of the device. -/
theorem commandStepFrame : Obligations.CommandStepFrame := by
  intro i s t h
  refine ⟨fun hs => exec_latched hs h, fun hs => exec_k hs h, fun hs => exec_wbuf hs h, fun hs => exec_rbuf_sr hs h,
    fun hx hs => exec_fault hx hs h, fun hs hd => exec_code hs hd h, fun ha hd => exec_cs ha hd h,
    fun ha hx hd => exec_dev ha hx hd h, fun hd => ?_, fun hf a => ?_, exec_ports h⟩
  · obtain ⟨f, he⟩ := exec_dev_frame_only hd h
    rw [he]
    exact ⟨rfl, rfl, rfl, rfl, rfl, rfl⟩
  · rw [exec_mem h hf]


/-! ### No command reads what an earlier one left (R46)

`State.live` clears the registers that nothing reads before it writes them. A step and the same step with those registers
cleared first differ in no live register (`step_live`), so runs from states with equal live parts stay equal in them. -/

/-- Byte `k` of the frame is one that FETCH took (R107): `r.wbuf` is about to be sent. -/
def wbufDue (op : OpCode) (k : Pos) : Bool := (Command.ofOp op).any (needsFetch · k)

/-- The frame that ends is a complete polling frame: `r.sr` is about to be tested (R192). -/
def srDue (op : OpCode) (fault : Bool) : Bool := !fault && Command.ofOp op == some .waitWriteComplete

/-- The state with every register cleared that is written before it is read again (R46). -/
def State.live (s : State) : State :=
  match s.st with
  | .idle =>
    { s with op := 0, addr := 0, len := 0, cdata := 0, k := 0, wbuf := 0, rbuf := 0, sr := 0, fault := false, code := 0 }
  | .assert | .fetch | .pause => { s with wbuf := 0, rbuf := 0, sr := 0, code := 0 }
  | .xchg => { s with wbuf := if wbufDue s.op s.k then s.wbuf else 0, rbuf := 0, sr := 0, code := 0 }
  | .deliver => { s with wbuf := 0, sr := 0, code := 0 }
  | .deassert => { s with wbuf := 0, rbuf := 0, sr := if srDue s.op s.fault then s.sr else 0, code := 0 }
  | .resp => { s with wbuf := 0, rbuf := 0, sr := 0 }

section
variable (s : State)

@[simp] theorem live_st : s.live.st = s.st := by unfold State.live; split <;> rfl
@[simp] theorem live_cs : s.live.cs = s.cs := by unfold State.live; split <;> rfl
@[simp] theorem live_dev : s.live.dev = s.dev := by unfold State.live; split <;> rfl
@[simp] theorem live_inp : s.live.inp = s.inp := by unfold State.live; split <;> rfl
@[simp] theorem live_trace : s.live.trace = s.trace := by unfold State.live; split <;> rfl
@[simp] theorem live_draws : s.live.draws = s.draws := by unfold State.live; split <;> rfl

/-- Clearing twice clears no more. -/
@[simp] theorem live_live : s.live.live = s.live := by
  cases hs : s.st
  case xchg => cases hw : wbufDue s.op s.k <;> simp [State.live, hs, hw]
  case deassert => cases hq : srDue s.op s.fault <;> simp [State.live, hs, hq]
  all_goals simp [State.live, hs]

/-- In IDLE no register of a command is live. -/
theorem live_overwrite_idle (hs : s.st = .idle) (o : OpCode) (a : Addr) (n : Len) (d : Byte) (k : Pos) (w r q : Byte)
    (f : Bool) (c : Code) :
    State.live { s with op := o, addr := a, len := n, cdata := d, k := k, wbuf := w, rbuf := r, sr := q, fault := f,
                        code := c } = s.live := by
  simp [State.live, hs]

/-! #### What surrounds a command's step reads live registers only -/

theorem deviceStep_live : deviceStep s.live = (deviceStep s).live := by
  cases hs : s.st <;> simp [State.live, hs, deviceStep]

theorem nextInputs_live : nextInputs s.live = (nextInputs s).live := by
  cases hs : s.st <;> simp [State.live, hs, nextInputs, State.upcoming]

theorem resetStep_live : resetStep s.live = resetStep s := by
  cases hs : s.st <;> simp [State.live, hs, resetStep, State.emit]

theorem fetchInstr_live : fetchInstr s.live = fetchInstr s := by
  cases hs : s.st <;> simp [State.live, hs, fetchInstr]

end
/-! #### Each step of a command, with the dead registers cleared before it -/

section
variable {s : State} {c : Command}

/-- Advance leaves only `r.op`, `r.addr`, `r.len`, `r.cdata`, `r.k`, `r.fault` live, and `r.sr` where it ends a polling
frame. -/
theorem advance_live (hc : Command.ofOp s.op = some c) (w r q : Byte) (e : Code)
    (hq : c = .waitWriteComplete → s.k + 1 = 2 → q = s.sr) :
    (advance c { s with wbuf := w, rbuf := r, sr := q, code := e }).live = (advance c s).live := by
  by_cases hend : s.k + 1 = frameLen c s.len
  · cases hd : srDue s.op s.fault with
    | false => simp only [advance, State.live, hend, if_true, hd, Bool.false_eq_true, if_false]
    | true =>
      have hwait : c = .waitWriteComplete := by
        simp only [srDue, hc, Bool.and_eq_true, beq_iff_eq, Option.some.injEq] at hd
        exact hd.2
      subst hwait
      simp only [advance, State.live, hend, if_true, hd, hq rfl hend]
  · cases hn : needsFetch c (s.k + 1) with
    | true => simp only [advance, State.live, hend, hn, if_true, if_false]
    | false =>
      have hw : wbufDue s.op (s.k + 1) = false := by simp only [wbufDue, hc, Option.any_some, hn]
      simp only [advance, State.live, hend, hn, hw, Bool.false_eq_true, if_false]

theorem assertStep_live (hs : s.st = .assert) (hk : s.k = 0) : (assertStep s.live).live = (assertStep s).live := by
  have hw : wbufDue s.op s.k = false := by
    cases h : Command.ofOp s.op <;> simp [wbufDue, needsFetch, h, hk]
  simp [State.live, hs, assertStep, hw]

theorem fetchStep_live (hs : s.st = .fetch) : (fetchStep s.live).live = (fetchStep s).live := by
  rcases fetchStep_cases s with ⟨hv, he⟩ | ⟨hv, he⟩
  · simp [fetchStep, hv]
  · simp [State.live, hs, fetchStep, hv, State.emit]

theorem pauseStep_live (hs : s.st = .pause) : (pauseStep s.live).live = (pauseStep s).live := by
  rcases pauseStep_cases s with ⟨hd, he⟩ | ⟨hd, he⟩
  · simp [pauseStep, hd]
  · simp [State.live, hs, pauseStep, hd, State.emit]

theorem respStep_live (hs : s.st = .resp) : (respStep s.live).live = (respStep s).live := by
  rcases respStep_cases s with ⟨hr, he⟩ | ⟨hr, he⟩
  · simp [respStep, hr]
  · simp [State.live, hs, respStep, hr, State.emit]

theorem acceptLegal_live (hs : s.st = .idle) (o : OpCode) (a : Addr) (n : Len) (d : Byte) :
    (acceptLegal o a n d s.live).live = (acceptLegal o a n d s).live := by
  simp [State.live, hs, acceptLegal, State.emit, State.latch]

theorem acceptIllegal_live (hs : s.st = .idle) (o : OpCode) (a : Addr) (n : Len) (d : Byte) :
    (acceptIllegal o a n d s.live).live = (acceptIllegal o a n d s).live := by
  simp [State.live, hs, acceptIllegal, State.emit, State.latch]

/-- WAIT_WRITE_COMPLETE delivers no byte (R106). -/
theorem rxUse_wait_ne_deliver (k : Pos) : rxUse .waitWriteComplete k ≠ .deliver := by
  unfold rxUse
  split_ifs <;> simp

theorem deliverStep_live (hs : s.st = .deliver) (hc : Command.ofOp s.op = some c) (hu : rxUse c s.k = .deliver) :
    (deliverStep c s.live).live = (deliverStep c s).live := by
  rcases deliverStep_cases c s with ⟨hr, he⟩ | ⟨hr, he⟩
  · simp [deliverStep, hr]
  · have hlive : deliverStep c s.live =
        advance c { s.emit (.rd s.rbuf) with wbuf := 0, rbuf := s.rbuf, sr := 0, code := 0 } := by
      simp [State.live, hs, deliverStep, hr, State.emit]
    rw [hlive, he]
    exact advance_live (s := s.emit (.rd s.rbuf)) hc _ _ _ _ fun hw => absurd (hw ▸ hu) (rxUse_wait_ne_deliver s.k)

/-- DEASSERT reads the status byte after a complete polling frame only (R192). -/
theorem deassertStep_live {wait : Bool} (hs : s.st = .deassert)
    (hw : wait = true → Command.ofOp s.op = some .waitWriteComplete) :
    (deassertStep wait s.live).live = (deassertStep wait s).live := by
  cases hf : s.fault with
  | true => simp [State.live, hs, deassertStep, hf, State.emit]
  | false =>
    cases wait with
    | false => simp [State.live, hs, deassertStep, hf, State.emit]
    | true =>
      have hd : srDue s.op false = true := by simp [srDue, hw rfl]
      cases hb : statusRdy s.sr <;> simp [State.live, hs, deassertStep, pollDecision, hf, hd, hb, State.emit]

/-- A byte that FETCH did not take does not depend on `r.wbuf` (R105, R107). -/
theorem txByte_wbuf_unread {k : Pos} (h : needsFetch c k = false) (a : Addr) (d w w' : Byte) :
    txByte c k a d w = txByte c k a d w' := by
  cases c
  case writeRange =>
    have hk : k = 0 ∨ k = 1 ∨ k = 2 := by
      simp only [needsFetch, beq_self_eq_true, Bool.true_and, decide_eq_false_iff_not] at h
      bv_omega
    rcases hk with rfl | rfl | rfl <;> rfl
  all_goals rfl

/-- The byte that XCHG sends is read from live registers. -/
theorem tx_live (hs : s.st = .xchg) (hc : Command.ofOp s.op = some c) : s.live.tx c = s.tx c := by
  cases hn : needsFetch c s.k with
  | true =>
    have hw : wbufDue s.op s.k = true := by simp [wbufDue, hc, hn]
    simp [State.live, hs, hw, State.tx]
  | false =>
    have hw : wbufDue s.op s.k = false := by simp [wbufDue, hc, hn]
    simpa [State.live, hs, hw, State.tx] using txByte_wbuf_unread hn s.addr s.cdata 0 s.wbuf

theorem rx_live (s : State) : s.live.rx = s.rx := by simp [State.rx]

/-- An exchange sends the same byte, and leaves the dead registers as dead as they were. -/
theorem exchanged_live (hs : s.st = .xchg) (hc : Command.ofOp s.op = some c) :
    exchanged c s.live =
      { exchanged c s with wbuf := if wbufDue s.op s.k then s.wbuf else 0, rbuf := 0, sr := 0, code := 0 } := by
  simp only [exchanged, tx_live hs hc, rx_live, live_dev]
  simp only [State.live, hs, State.emit]

theorem xchgStep_live (hs : s.st = .xchg) (hc : Command.ofOp s.op = some c) :
    (xchgStep c s.live).live = (xchgStep c s).live := by
  have hk : s.live.k = s.k := by simp only [State.live, hs]
  rcases xchgStep_cases c s with ⟨ha, he⟩ | ⟨ha, he, h⟩ | ⟨ha, he, hu, h⟩ | ⟨ha, he, hu, h⟩ | ⟨ha, he, hu, h⟩
  · simp [xchgStep, ha]
  · have hlive : xchgStep c s.live = transportFault c s.live := by simp [xchgStep, ha, he]
    rw [hlive, h]
    simp only [transportFault, tx_live hs hc, live_dev]
    simp [State.live, hs, State.emit, srDue]
  · have hlive : xchgStep c s.live = { exchanged c s.live with rbuf := s.rx, st := .deliver } := by
      simp only [xchgStep, live_inp, ha, he, hk, hu, rx_live, if_true, Bool.false_eq_true, if_false]
    rw [hlive, h, exchanged_live hs hc]
    rfl
  · have hlive : xchgStep c s.live = advance c { exchanged c s.live with sr := s.rx } := by
      simp only [xchgStep, live_inp, ha, he, hk, hu, rx_live, if_true, Bool.false_eq_true, if_false]
    rw [hlive, h, exchanged_live hs hc]
    exact advance_live (s := { exchanged c s with sr := s.rx }) hc _ _ _ _ fun _ _ => rfl
  · have hlive : xchgStep c s.live = advance c (exchanged c s.live) := by
      simp only [xchgStep, live_inp, ha, he, hk, hu, if_true, Bool.false_eq_true, if_false]
    rw [hlive, h, exchanged_live hs hc]
    refine advance_live (s := exchanged c s) hc _ _ _ _ fun hw (h2 : s.k + 1 = 2) => ?_
    subst hw
    have h1 : s.k = 1 := by bv_omega
    rw [h1] at hu
    cases hu

end

/-! #### Runs -/

/-- An outcome with the dead registers of its next state cleared. -/
def liveOutcome : Host.Outcome State Fault Refusal → Host.Outcome State Fault Refusal
  | .next s => .next s.live
  | .fault r => .fault r
  | .refused r => .refused r

theorem liveOutcome_eq_next {o : Host.Outcome State Fault Refusal} {t : State} (h : liveOutcome o = .next t) :
    ∃ s, o = .next s ∧ s.live = t := by
  cases o with
  | next s => cases h; exact ⟨s, rfl, rfl⟩
  | fault r => cases h
  | refused r => cases h

theorem liveOutcome_thenNextInputs (o : Host.Outcome State Fault Refusal) :
    liveOutcome (thenNextInputs o) = thenNextInputs (liveOutcome o) := by
  cases o with
  | next s => simp only [thenNextInputs, liveOutcome, nextInputs_live]
  | fault r => rfl
  | refused r => rfl

theorem commandStep_live {c : Command} {s : State} (hc : s.st ≠ .idle → Command.ofOp s.op = some c) (hp : PosInv s)
    (a : Addr) (n : Len) (d : Byte) :
    liveOutcome (commandStep c a n d s.live) = liveOutcome (commandStep c a n d s) := by
  cases hs : s.st <;> simp only [commandStep, live_st, hs, liveOutcome, Host.Outcome.next.injEq]
  case idle => exact acceptLegal_live hs _ a n d
  all_goals have hc := hc (by simp [hs])
  case assert => exact assertStep_live hs (posInv_assert_k hp hs)
  case fetch => exact fetchStep_live hs
  case xchg => exact xchgStep_live hs hc
  case deliver => exact deliverStep_live hs hc (posInv_deliver hp hs hc).1
  case deassert => exact deassertStep_live hs fun hw => beq_iff_eq.1 hw ▸ hc
  case pause => exact pauseStep_live hs
  case resp => exact respStep_live hs

theorem illegalStep_live {s : State} (hp : PosInv s) (o : OpCode) (a : Addr) (n : Len) (d : Byte) :
    liveOutcome (illegalStep o a n d s.live) = liveOutcome (illegalStep o a n d s) := by
  cases hs : s.st <;> simp only [illegalStep, live_st, hs, liveOutcome, Host.Outcome.next.injEq]
  case idle => exact acceptIllegal_live hs o a n d
  case assert => exact assertStep_live hs (posInv_assert_k hp hs)
  case fetch => exact fetchStep_live hs
  case deassert => exact deassertStep_live hs (by simp)
  case pause => exact pauseStep_live hs
  case resp => exact respStep_live hs

/-- The step of the command that is due reads live registers only. -/
theorem exec_live {i : Instr} {s : State} (hi : s.st ≠ .idle → i.op = s.op) (hp : PosInv s) :
    liveOutcome (exec i s.live) = liveOutcome (exec i s) := by
  cases hc : Command.ofOp i.op with
  | some c =>
    rw [(exec_legal hc _).2, (exec_legal hc _).2]
    exact commandStep_live (fun hs => hi hs ▸ hc) hp _ _ _
  | none =>
    rw [exec_illegal hc, exec_illegal hc]
    exact illegalStep_live hp _ _ _ _

/-- A step reads live registers only (R46). -/
theorem step_live {s : State} (hp : PosInv s) : liveOutcome (step s.live) = liveOutcome (step s) := by
  unfold step
  rw [live_inp, deviceStep_live, fetchInstr_live, resetStep_live]
  cases s.inp.rst with
  | true => rfl
  | false =>
    cases hf : fetchInstr (deviceStep s) with
    | none => simp only [Bool.false_eq_true, if_false, liveOutcome, nextInputs_live, live_live]
    | some i =>
      simp only [Bool.false_eq_true, if_false, liveOutcome_thenNextInputs]
      rw [exec_live (s := deviceStep s) (fetchInstr_op hf) hp]

/-- Runs from two states with the same live registers end in states with the same live registers. -/
theorem run_live (n : Nat) {s u t : State} (hs : PosInv s) (hu : PosInv u) (hlive : u.live = s.live)
    (h : core.run n s = .next t) : ∃ v : State, core.run n u = .next v ∧ v.live = t.live := by
  induction n generalizing s u with
  | zero => cases h; exact ⟨u, rfl, hlive⟩
  | succ n ih =>
    obtain ⟨s', hs', hrun⟩ := (run_succ_eq_next (M := core)).1 h
    have hstep : liveOutcome (step u) = .next s'.live :=
      calc liveOutcome (step u) = liveOutcome (step u.live) := (step_live hu).symm
        _ = liveOutcome (step s.live) := by rw [hlive]
        _ = liveOutcome (step s) := step_live hs
        _ = .next s'.live := congrArg liveOutcome hs'
    obtain ⟨u', hu', hlive'⟩ := liveOutcome_eq_next hstep
    obtain ⟨v, hv, hvt⟩ :=
      ih (framePositionStaysInRange s s' hs hs') (framePositionStaysInRange u u' hu hu') hlive' hrun
    exact ⟨v, (run_succ_eq_next (M := core)).2 ⟨u', hu', hv⟩, hvt⟩

/-- Settles O43: in IDLE no register of a command is live, so the two machines have the same live registers. -/
theorem commandsAreStateless : Obligations.CommandsAreStateless := by
  intro n s u t hs hu h
  have hlive : u.live = s.live := by
    rw [hu]
    exact live_overwrite_idle s hs ..
  have hidle : u.st = .idle := by rw [hu]; exact hs
  obtain ⟨v, hv, hvt⟩ := run_live n (posInv_of_idle hs) (posInv_of_idle hidle) hlive h
  exact ⟨v, hv, by simpa using congrArg State.trace hvt, by simpa using congrArg State.st hvt,
    by simpa using congrArg State.cs hvt, by simpa using congrArg State.dev hvt⟩

end Sys2Proof.Machine
end

section
/-! SUPPORT. The device's data stay in form (20_memory.md R60, R66, R67): one lemma for each thing that can happen to
the device, and from them that every step of the machine keeps `DeviceInv`. -/

namespace Sys2Proof.Machine

/-! ### The array stays canonical and inside `MEM_SIZE` -/

section
variable (P : DevParams)

/-- The array is canonical and holds no address past `MEM_SIZE`. -/
def ArrayInForm (m : Memory) : Prop := Memory.wf P m ∧ ∀ c ∈ m, c.1 < memSize P

variable {P}

theorem deviceInv_iff {d : Device} :
    DeviceInv P d ↔ ArrayInForm P d.mem ∧ (∀ p, d.pending = some p → Pending.wf P p) ∧
      ∀ f, d.frame = some f → DevFrame.wf P f := by
  simp only [DeviceInv, ArrayInForm, and_assoc]

/-- An array of any value is canonical and inside `MEM_SIZE` (R60). -/
theorem freeArray_inForm (n : Nat) : ArrayInForm P (freeArray P n) :=
  ⟨memory_ofFn_wf P _ _, fun _ hc => (mem_memory_ofFn hc).1⟩

/-- A byte at an offset of a page lands inside the array (R67). -/
theorem landByte_inForm {page : Nat} (bp : BitVec 2) (hpage : page % pageSize P = 0) (hlt : page < memSize P)
    {m : Memory} (hm : ArrayInForm P m) {c : Host.Cell} (hc : c.1 < pageSize P) :
    ArrayInForm P (landByte P bp page m c) := by
  refine ⟨landByte_wf P bp page c hm.1, ?_⟩
  unfold landByte
  split
  · exact hm.2
  · exact memory_write_inside P c.2 (page_inside P hpage hlt hc) hm.2

theorem landAll_inForm {page : Nat} (bp : BitVec 2) (hpage : page % pageSize P = 0) (hlt : page < memSize P)
    {buf : List Host.Cell} (hbuf : ∀ c ∈ buf, c.1 < pageSize P) {m : Memory} (hm : ArrayInForm P m) :
    ArrayInForm P (buf.foldl (landByte P bp page) m) :=
  List.foldlRecOn buf _ hm fun _ hm' c hc => landByte_inForm bp hpage hlt hm' (hbuf c hc)

/-- The array after a device reset is the array after the bytes of the write in progress landed with other values. -/
theorem resetArray_data (n : Nat) {d : Device} {page : Nat} {buf : List Host.Cell}
    (hp : d.pending = some (.data page buf)) :
    resetArray P n d =
      (buf.map fun c => (c.1, Config.free (.array (page + c.1)) n 8)).foldl (landByte P d.bp page) d.mem := by
  rw [List.foldl_map, resetArray, hp]

theorem resetArray_inForm (n : Nat) {d : Device} (hm : ArrayInForm P d.mem)
    (hp : ∀ p, d.pending = some p → Pending.wf P p) : ArrayInForm P (resetArray P n d) := by
  cases h : d.pending with
  | none => simpa only [resetArray, h] using hm
  | some p =>
    cases p with
    | data page buf =>
      obtain ⟨hpage, hlt, -, hbuf⟩ := hp _ h
      rw [resetArray_data n h]
      refine landAll_inForm d.bp hpage hlt ?_ hm
      exact List.forall_mem_map.2 hbuf
    | status v => simpa only [resetArray, h] using hm
    | unknown => simpa only [resetArray, h] using freeArray_inForm n

/-! ### The page buffer and the pointer of an open frame stay in form -/

theorem pageBuf_put_wf {buf : List Host.Cell} (h : PageBuf.wf P buf) (ptr : Nat) (b : Byte) :
    PageBuf.wf P (cellsPut buf (ptr % pageSize P) b) := by
  refine ⟨cellsPut_rising _ b h.1, fun c hc => ?_⟩
  rcases mem_cellsPut hc with rfl | hc
  · exact Nat.mod_lt _ (pageSize_pos P)
  · exact h.2 c hc

/-- The page of an address of the array begins inside the array. -/
theorem page_wf {ptr : Nat} (h : ptr < memSize P) :
    (ptr - ptr % pageSize P) % pageSize P = 0 ∧ ptr - ptr % pageSize P < memSize P :=
  ⟨Nat.sub_mod_eq_zero_of_mod_eq (Nat.mod_mod _ _).symm, by omega⟩

/-- From its second operand byte on, the pointer of a write-data frame lies inside the array (R67, R75). -/
theorem nextPtr_inside {count ptr : Nat} (tx : Byte) (hcount : 1 ≤ count) (h : 2 ≤ count → ptr < memSize P) :
    nextPtr P wireWriteData count ptr tx < memSize P := by
  unfold nextPtr
  split_ifs with h0 h1 hw
  · omega
  · exact Nat.mod_lt _ (memSize_pos P)
  · obtain ⟨hmod, hlt⟩ := page_wf (h (by omega))
    exact page_inside P hmod hlt (Nat.mod_lt _ (pageSize_pos P))
  · exact absurd rfl hw

theorem frameTake_wf {f : DevFrame} (h : DevFrame.wf P f) (tx : Byte) : DevFrame.wf P (frameTake P f tx) := by
  obtain ⟨hcount, hbuf, hptr⟩ := h
  cases ho : f.opcode with
  | none =>
    simp only [frameTake, ho]
    exact ⟨by simp, hbuf, fun _ h2 => absurd h2 (by simp [hcount ho])⟩
  | some op =>
    simp only [frameTake, ho]
    refine ⟨by simp, ?_, fun hw h2 => ?_⟩
    · dsimp only
      split
      · exact pageBuf_put_wf hbuf _ _
      · exact hbuf
    · cases hw
      exact nextPtr_inside tx (by simpa using h2) (hptr ho)

end

/-! ### Every step of the device keeps its data in form -/

section
variable {P : DevParams} {d : Device}

/-- Every device variable at any value is in form: no write but one of which nothing is known, and no frame. -/
theorem deviceHavoc_inv (n : Nat) : DeviceInv P (deviceHavoc P n) := by
  refine deviceInv_iff.2 ⟨freeArray_inForm n, fun p hp => ?_, by simp [deviceHavoc]⟩
  obtain ⟨-, rfl⟩ : _ ∧ Pending.unknown = p := by simpa [deviceHavoc] using hp
  trivial

/-- A write of no bytes is in form. -/
theorem pending_empty_wf : Pending.wf P (.data 0 []) :=
  ⟨Nat.zero_mod _, memSize_pos P, List.Pairwise.nil, by simp⟩

theorem deviceCsOn_inv (h : DeviceInv P d) : DeviceInv P (deviceCsOn d) := by
  obtain ⟨hm, hp, -⟩ := deviceInv_iff.1 h
  refine deviceInv_iff.2 ⟨hm, hp, fun f hf => ?_⟩
  cases hf
  exact ⟨fun _ => rfl, ⟨List.Pairwise.nil, by simp⟩, by simp⟩

theorem deviceTake_inv (h : DeviceInv P d) (tx : Byte) : DeviceInv P (deviceTake P d tx) := by
  obtain ⟨hm, hp, hf⟩ := deviceInv_iff.1 h
  refine deviceInv_iff.2 ⟨hm, hp, fun f' hf' => ?_⟩
  obtain ⟨f, hopen, rfl⟩ := Option.map_eq_some_iff.1 hf'
  exact frameTake_wf (hf f hopen) tx

/-- A frame that is cut short keeps its data. -/
theorem cut_wf {f : DevFrame} (h : DevFrame.wf P f) : DevFrame.wf P { f with cut := true } := h

theorem deviceCut_inv (h : DeviceInv P d) : DeviceInv P (deviceCut d) := by
  obtain ⟨hm, hp, hf⟩ := deviceInv_iff.1 h
  refine deviceInv_iff.2 ⟨hm, hp, fun f' hf' => ?_⟩
  obtain ⟨f, hopen, rfl⟩ := Option.map_eq_some_iff.1 hf'
  exact cut_wf (hf f hopen)

theorem deviceComplete_inv (n : Nat) (h : DeviceInv P d) : DeviceInv P (deviceComplete P n d) := by
  obtain ⟨hm, hp, hf⟩ := deviceInv_iff.1 h
  unfold deviceComplete
  split
  · exact h
  · rename_i page buf hd
    obtain ⟨hpage, hlt, -, hbuf⟩ := hp _ hd
    exact deviceInv_iff.2 ⟨landAll_inForm d.bp hpage hlt hbuf hm, by simp, hf⟩
  · exact deviceInv_iff.2 ⟨hm, by simp, hf⟩
  · exact deviceInv_iff.2 ⟨freeArray_inForm n, by simp, hf⟩

theorem deviceReset_inv (n : Nat) (h : DeviceInv P d) : DeviceInv P (deviceReset P n d) := by
  obtain ⟨hm, hp, hf⟩ := deviceInv_iff.1 h
  refine deviceInv_iff.2 ⟨resetArray_inForm n hm hp, fun p hp' => ?_, fun f' hf' => ?_⟩
  · obtain ⟨-, rfl⟩ : _ ∧ Pending.data 0 [] = p := by simpa [deviceReset] using hp'
    exact pending_empty_wf
  · obtain ⟨f, hopen, rfl⟩ := Option.map_eq_some_iff.1 hf'
    exact cut_wf (hf f hopen)

/-- The end of a frame leaves the array, and starts a write inside the page of the frame's pointer (R61, R67). -/
theorem frameEffect_inv (n : Nat) {f : DevFrame} (hf : DevFrame.wf P f) (h : DeviceInv P d) :
    DeviceInv P (frameEffect P n f d) := by
  obtain ⟨hm, hp, hopen⟩ := deviceInv_iff.1 h
  have starts (w : Bool) (q : Option Pending) (hq : ∀ p, q = some p → Pending.wf P p) :
      DeviceInv P { d with wel := w, pending := q } := deviceInv_iff.2 ⟨hm, hq, hopen⟩
  unfold frameEffect
  split_ifs with _ _ _ _ _ _ _ hdata
  · exact h
  · exact h
  · exact starts _ _ (by rintro _ ⟨⟩; trivial)
  · exact h
  · exact h
  · exact starts _ _ (by rintro _ ⟨⟩; exact pending_empty_wf)
  · exact starts _ _ (by simp)
  · obtain ⟨hbuf, hptr⟩ := hf.2
    obtain ⟨hpage, hlt⟩ := page_wf (hptr hdata.1 (by omega))
    exact starts _ _ (by rintro _ ⟨⟩; exact ⟨hpage, hlt, hbuf⟩)
  · exact h
  · exact deviceHavoc_inv n

theorem deviceCsOff_inv (n : Nat) (h : DeviceInv P d) : DeviceInv P (deviceCsOff P n d) := by
  obtain ⟨hm, hp, hf⟩ := deviceInv_iff.1 h
  have hclosed : DeviceInv P { d with frame := none } := deviceInv_iff.2 ⟨hm, hp, by simp⟩
  rcases deviceCsOff_cases P n d with
    ⟨-, he⟩ | ⟨f, hopen, ⟨-, he⟩ | ⟨-, -, -, he⟩ | ⟨-, -, -, he⟩ | ⟨-, -, -, he⟩⟩ <;> rw [he]
  · exact h
  · exact deviceHavoc_inv n
  · exact hclosed
  · exact deviceHavoc_inv n
  · exact frameEffect_inv n (hf f hopen) hclosed

end

theorem deviceStep_inv {s : State} (h : DeviceInv Config.device s.dev) :
    DeviceInv Config.device (deviceStep s).dev := by
  unfold deviceStep
  dsimp only
  split_ifs
  · exact deviceReset_inv _ h
  · exact deviceComplete_inv _ h
  · exact h

theorem exec_keeps_deviceInv {i : Instr} {s t : State} (h : DeviceInv Config.device s.dev)
    (he : exec i s = .next t) : DeviceInv Config.device t.dev := by
  cases exec_move he with
  | hold | acceptLegal | acceptIllegal | fetch | deliver | pause | respond => exact h
  | assert => exact deviceCsOn_inv h
  | fault => exact deviceCut_inv h
  | receive | poll | discard => exact deviceTake_inv h _
  | failed | pollAgain | finished => exact deviceCsOff_inv _ h

/-- Settles O42: the device's own step, a controller reset and a command's step keep the form, one lemma for each
thing that can happen to the device. -/
theorem deviceDataStaysInForm : Obligations.DeviceDataStaysInForm := by
  intro s t hinv h
  have hdev := deviceStep_inv hinv
  rcases step_cases h with ⟨-, rfl⟩ | ⟨-, -, -, rfl⟩ | ⟨-, i, u, -, hu, rfl⟩
  · rw [nextInputs_dev, resetStep_dev]
    split
    · exact deviceHavoc_inv _
    · exact hdev
  · exact hdev
  · exact exec_keeps_deviceInv (t := u) hdev hu

end Sys2Proof.Machine
end

section
/-! SUPPORT. The address bytes, block protection, what the device holds after the bytes of a frame, and what a whole
frame does to it (20_memory.md R52, R57 to R72). -/

namespace Sys2Proof.Machine

/-! ### The address bytes (R52) -/

/-- The two address bytes recompose the address, high byte first. -/
theorem addrHi_addrLo (a : Addr) : (addrHi a).toNat * 256 + (addrLo a).toNat = a.toNat := by
  simp only [addrHi, addrLo, BitVec.extractLsb'_toNat, Nat.shiftRight_eq_div_pow]
  omega

/-- Settles O9: the data commands are the four whose one-byte frame has four bytes or more, and each sends the address
bytes at positions 1 and 2. -/
theorem addressBigEndian : Obligations.AddressBigEndian := by
  intro c a d w hlen
  cases c
  case readByte | writeByte | readRange | writeRange => exact addrHi_addrLo a
  all_goals exact absurd hlen (by decide)

/-! ### Block protection (R72) -/

section
variable (P : DevParams) (a : Nat)

theorem prot_zero : prot P 0 a = false := rfl

theorem prot_one : prot P 1 a = decide (quarterBase P ≤ a ∧ a < quarterBase P + memSize P / 4) := rfl

theorem prot_two : prot P 2 a = decide (halfBase P ≤ a ∧ a < halfBase P + memSize P / 2) := rfl

theorem prot_three : prot P 3 a = true := rfl

/-- Level 1 lies in level 2. -/
theorem prot_one_two (h : prot P 1 a = true) : prot P 2 a = true := by
  have hq := quarter_in_half P
  rw [prot_one, decide_eq_true_iff] at h
  rw [prot_two, decide_eq_true_iff]
  omega

theorem prot_mono {b b' : BitVec 2} (hle : b ≤ b') (h : prot P b a = true) : prot P b' a = true := by
  have level : ∀ b b' : BitVec 2, b ≤ b' → b = 0 ∨ b' = 3 ∨ b = b' ∨ b = 1 ∧ b' = 2 := by decide
  rcases level b b' hle with rfl | rfl | rfl | ⟨rfl, rfl⟩
  · exact absurd h Bool.false_ne_true
  · exact prot_three P a
  · exact h
  · exact prot_one_two P a h

end

/-- Of the numbers below `n`, an interval holds those that it has below `n`. -/
theorem countP_range_interval (b c n : Nat) :
    (List.range n).countP (fun a => decide (b ≤ a ∧ a < c)) = min n c - min n b := by
  induction n with
  | zero => simp
  | succ n ih =>
    rw [List.range_succ, List.countP_append, ih, List.countP_singleton]
    split <;> simp_all <;> omega

/-- Settles O47: level 1 is a quarter of the array inside the half that is level 2. -/
theorem protectionIsMonotone : Obligations.ProtectionIsMonotone := by
  intro P a
  have hhalf := half_fits P
  have hquarter := quarter_in_half P
  refine ⟨prot_zero P a, fun _ => prot_three P a, fun b b' => prot_mono P a, ?_, ?_⟩
  · rw [show prot P 1 = _ from funext (prot_one P), countP_range_interval]
    omega
  · rw [show prot P 2 = _ from funext (prot_two P), countP_range_interval]
    omega

/-! ### The frame that the device holds after some bytes (R61) -/

/-- A frame of which no byte has been received. -/
def DevFrame.opened (late : Bool) : DevFrame :=
  { late := late, cut := false, opcode := none, count := 0, last := 0, ptr := 0, buf := [] }

section
variable (P : DevParams)

/-- The bytes of a frame go to the open frame and to nothing else of the device. -/
theorem foldl_deviceTake (bytes : List Byte) (d : Device) :
    bytes.foldl (deviceTake P) (deviceCsOn d) =
      { d with frame := some (bytes.foldl (frameTake P) (.opened (deviceBusy d))) } := by
  induction bytes using List.reverseRecOn with
  | nil => rfl
  | append_singleton xs x ih => rw [List.foldl_concat, List.foldl_concat, ih]; rfl

theorem frameTake_late_cut (f : DevFrame) (tx : Byte) :
    (frameTake P f tx).late = f.late ∧ (frameTake P f tx).cut = f.cut := by
  unfold frameTake
  split <;> exact ⟨rfl, rfl⟩

theorem foldl_frameTake_late_cut (bytes : List Byte) (f : DevFrame) :
    (bytes.foldl (frameTake P) f).late = f.late ∧ (bytes.foldl (frameTake P) f).cut = f.cut :=
  List.foldlRecOn (motive := fun g => g.late = f.late ∧ g.cut = f.cut) bytes _ ⟨rfl, rfl⟩ fun g ⟨hl, hc⟩ x _ =>
    ⟨(frameTake_late_cut P g x).1.trans hl, (frameTake_late_cut P g x).2.trans hc⟩

/-- The address at which a data frame begins (R66, R67, R75). -/
abbrev startAddr (a : Addr) : Nat := a.toNat % memSize P

/-- The frame of a data command after its opcode and its address. -/
def DevFrame.addressed (late : Bool) (op : Byte) (a : Addr) : DevFrame :=
  { late := late, cut := false, opcode := some op, count := 2, last := addrLo a, ptr := startAddr P a, buf := [] }

theorem foldl_frameTake_address (late : Bool) (op : Byte) (a : Addr) :
    [op, addrHi a, addrLo a].foldl (frameTake P) (.opened late) = .addressed P late op a := by
  simp [frameTake, nextPtr, DevFrame.opened, DevFrame.addressed, addrHi_addrLo]

variable {P}

/-- An operand byte of a frame. -/
theorem frameTake_operand {op : Byte} {f : DevFrame} (ho : f.opcode = some op) (tx : Byte) :
    frameTake P f tx =
      { f with
        count := f.count + 1
        last := tx
        ptr := nextPtr P op f.count f.ptr tx
        buf := if op = wireWriteData ∧ 2 ≤ f.count then cellsPut f.buf (f.ptr % pageSize P) tx else f.buf } := by
  simp only [frameTake, ho]

/-- Operand bytes are counted and leave the opcode. -/
theorem foldl_frameTake_count {op : Byte} {f : DevFrame} (ho : f.opcode = some op) (xs : List Byte) :
    (xs.foldl (frameTake P) f).opcode = some op ∧ (xs.foldl (frameTake P) f).count = f.count + xs.length := by
  induction xs using List.reverseRecOn with
  | nil => exact ⟨ho, rfl⟩
  | append_singleton xs x ih =>
    obtain ⟨hop, hcount⟩ := ih
    rw [List.foldl_concat, frameTake_operand hop, List.length_append]
    exact ⟨hop, congrArg (· + 1) hcount⟩

/-- The frame of a data command after `xs.length` data bytes. -/
theorem addressed_foldl (late : Bool) (op : Byte) (a : Addr) (xs : List Byte) :
    (xs.foldl (frameTake P) (.addressed P late op a)).opcode = some op ∧
      (xs.foldl (frameTake P) (.addressed P late op a)).count = 2 + xs.length :=
  foldl_frameTake_count rfl xs

/-- The pointer of a read-data frame moves one address per byte (R66). -/
theorem readFrame_ptr (late : Bool) (a : Addr) (xs : List Byte) :
    (xs.foldl (frameTake P) (.addressed P late wireReadData a)).ptr = startAddr P a + xs.length := by
  induction xs using List.reverseRecOn with
  | nil => rfl
  | append_singleton xs x ih =>
    obtain ⟨hop, hcount⟩ := addressed_foldl (P := P) late wireReadData a xs
    rw [List.foldl_concat, frameTake_operand hop, List.length_append]
    simp only [nextPtr, ih, hcount]
    rw [if_neg (by omega), if_neg (by omega), if_neg (by decide)]
    rfl

end

/-! ### What a whole frame does (R57, R62 to R69) -/

section
variable (P : DevParams) (n : Nat) {d : Device}

theorem frameEffect_readData {f : DevFrame} (d : Device) (ho : f.opcode = some wireReadData) (hc : 2 ≤ f.count) :
    frameEffect P n f d = d := by
  simp [frameEffect, ho, hc, wireReadData, wireEnableWrite, wireDisableWrite, wireWriteStatus]

/-- A write-data frame with data starts an internal write of its page buffer if the latch allows it (R67, R68). -/
theorem frameEffect_writeData {f : DevFrame} (d : Device) (ho : f.opcode = some wireWriteData) (hc : 3 ≤ f.count) :
    frameEffect P n f d =
      if deviceWriteEnabled P d then { d with pending := some (.data (f.ptr - f.ptr % pageSize P) f.buf) } else d := by
  have h2 : f.count ≠ 2 := by omega
  simp [frameEffect, ho, hc, h2, wireReadData, wireWriteData, wireEnableWrite, wireDisableWrite, wireWriteStatus]

/-- A frame other than read-status, on a device that is not busy, has the effect of its opcode. -/
theorem deviceFrame_effect (hb : deviceBusy d = false) {op : Byte} (ho : op ≠ wireReadStatus) (xs : List Byte) :
    deviceFrame P n (op :: xs) d =
      frameEffect P n ((op :: xs).foldl (frameTake P) (.opened false)) { d with frame := none } := by
  obtain ⟨hlate : _ = false, hcut : _ = false⟩ := foldl_frameTake_late_cut P (op :: xs) (.opened false)
  have hop : ((op :: xs).foldl (frameTake P) (.opened false)).opcode = some op := (foldl_frameTake_count rfl xs).1
  rw [deviceFrame, foldl_deviceTake, hb]
  simp only [deviceCsOff, hlate, hcut, hop, Option.some.injEq, ho, false_and, Bool.false_eq_true, if_false]

theorem deviceFrame_enableWrite (hb : deviceBusy d = false) :
    deviceFrame P n [wireEnableWrite] d = { d with wel := true, frame := none } :=
  deviceFrame_effect P n hb (by decide) []

theorem deviceFrame_disableWrite (hb : deviceBusy d = false) :
    deviceFrame P n [wireDisableWrite] d = { d with wel := false, frame := none } :=
  deviceFrame_effect P n hb (by decide) []

theorem deviceFrame_writeStatus (hb : deviceBusy d = false) (v : Byte) :
    deviceFrame P n [wireWriteStatus, v] d =
      if deviceWriteEnabled P d then { d with pending := some (.status v), frame := none }
      else { d with frame := none } :=
  deviceFrame_effect P n hb (by decide) [v]

/-- A read-status frame answers the status register, also while busy (R65). -/
theorem deviceReply_readStatus (d : Device) : deviceReply P n [wireReadStatus] d = deviceStatus d := by
  rw [deviceReply, foldl_deviceTake]
  rfl

/-- A read-status frame changes nothing, also while busy (R57, R65). -/
theorem deviceFrame_readStatus (x : Byte) (d : Device) :
    deviceFrame P n [wireReadStatus, x] d = { d with frame := none } := by
  rw [deviceFrame, foldl_deviceTake]
  rfl

/-- The frame of a data command after its address and `xs`. -/
theorem foldl_frameTake_data (late : Bool) (op : Byte) (a : Addr) (xs : List Byte) :
    ([op, addrHi a, addrLo a] ++ xs).foldl (frameTake P) (.opened late) =
      xs.foldl (frameTake P) (.addressed P late op a) := by
  rw [List.foldl_append, foldl_frameTake_address]

theorem deviceReply_readData (hb : deviceBusy d = false) (a : Addr) (xs : List Byte)
    (hlt : startAddr P a + xs.length < memSize P) :
    deviceReply P n ([wireReadData, addrHi a, addrLo a] ++ xs) d =
      Memory.read P d.mem (startAddr P a + xs.length) := by
  obtain ⟨hlate : _ = false, hcut : _ = false⟩ :=
    foldl_frameTake_late_cut P xs (.addressed P false wireReadData a)
  obtain ⟨hop, hcount⟩ := addressed_foldl (P := P) false wireReadData a xs
  have hptr := readFrame_ptr (P := P) false a xs
  rw [deviceReply, foldl_deviceTake, hb, foldl_frameTake_data]
  generalize xs.foldl (frameTake P) (.addressed P false wireReadData a) = f at *
  have hstatus : ¬(f.opcode = some wireReadStatus ∧ f.count = 0) := fun h => by omega
  have hdata : f.opcode = some wireReadData ∧ f.late = false ∧ 2 ≤ f.count ∧ f.ptr < memSize P :=
    ⟨hop, hlate, by omega, hptr ▸ hlt⟩
  simp only [deviceAnswer]
  rw [if_neg (hcut ▸ Bool.false_ne_true), if_neg hstatus, if_pos hdata, hptr]

/-- The effect of a data command's frame on a device that is not busy. -/
theorem deviceFrame_data (hb : deviceBusy d = false) {op : Byte} (ho : op ≠ wireReadStatus) (a : Addr)
    (xs : List Byte) :
    deviceFrame P n ([op, addrHi a, addrLo a] ++ xs) d =
      frameEffect P n (xs.foldl (frameTake P) (.addressed P false op a)) { d with frame := none } := by
  rw [← foldl_frameTake_data]
  exact deviceFrame_effect P n hb ho _

theorem deviceFrame_readData (hb : deviceBusy d = false) (a : Addr) (xs : List Byte) :
    deviceFrame P n ([wireReadData, addrHi a, addrLo a] ++ xs) d = { d with frame := none } := by
  obtain ⟨hop, hcount⟩ := addressed_foldl (P := P) false wireReadData a xs
  rw [deviceFrame_data P n hb (by decide), frameEffect_readData P n _ hop (by omega)]

end

end Sys2Proof.Machine
end

section
/-! SUPPORT. The page buffer of a write-data frame, what lands in the array when its write completes, and the statements
about single frames of the device (20_memory.md R57 to R79). -/

namespace Sys2Proof.Machine

/-! ### The page buffer of a write-data frame (R67) -/

section
variable (P : DevParams)

/-- The offset in its page to which byte `i` of a write-data frame at `A` goes, the pointer wrapping inside it (R67). -/
def pageOffset (A i : Nat) : Nat := (A + i) % pageSize P

/-- Which of the first `n` bytes of a write-data frame at `A` is the last one sent to offset `o`. -/
def lastSentTo (A n o : Nat) : Option Nat := (List.range n).reverse.find? fun i => pageOffset P A i == o

theorem lastSentTo_succ (A n o : Nat) :
    lastSentTo P A (n + 1) o = if pageOffset P A n = o then some n else lastSentTo P A n o := by
  simp only [lastSentTo, List.range_succ, List.reverse_append, List.reverse_singleton, List.singleton_append,
    List.find?_cons]
  split <;> simp_all

variable {P}

theorem lastSentTo_lt {A n o i : Nat} (h : lastSentTo P A n o = some i) : i < n := by
  simpa using List.mem_of_find?_eq_some h

/-- The first address of the page of `A`. -/
def pageBase (P : DevParams) (A : Nat) : Nat := A - A % pageSize P

theorem pageBase_mod (A : Nat) : pageBase P A % pageSize P = 0 :=
  Nat.sub_mod_eq_zero_of_mod_eq (Nat.mod_mod _ _).symm

theorem pageBase_add_offset (A : Nat) : pageBase P A + pageOffset P A 0 = A :=
  Nat.sub_add_cancel (Nat.mod_le _ _)

/-- The offset of an address of a page. -/
theorem pageBase_add_mod (A i : Nat) : (pageBase P A + pageOffset P A i) % pageSize P = pageOffset P A i := by
  rw [Nat.add_mod, pageBase_mod, Nat.zero_add, Nat.mod_mod, pageOffset, Nat.mod_mod]

/-- One step of the pointer inside its page. -/
theorem pageBase_add_succ_mod (A i : Nat) :
    (pageBase P A + pageOffset P A i + 1) % pageSize P = pageOffset P A (i + 1) := by
  rw [Nat.add_mod, pageBase_add_mod, pageOffset, pageOffset, ← Nat.add_mod, Nat.add_assoc]

/-- The frame of a write-data command after its address and `xs`. -/
def writeFrame (P : DevParams) (late : Bool) (a : Addr) (xs : List Byte) : DevFrame :=
  xs.foldl (frameTake P) (.addressed P late wireWriteData a)

variable {late : Bool} {a : Addr}

theorem writeFrame_snoc (xs : List Byte) (x : Byte) :
    writeFrame P late a (xs ++ [x]) =
      { writeFrame P late a xs with
        count := 2 + xs.length + 1
        last := x
        ptr := nextPtr P wireWriteData (2 + xs.length) (writeFrame P late a xs).ptr x
        buf := cellsPut (writeFrame P late a xs).buf ((writeFrame P late a xs).ptr % pageSize P) x } := by
  obtain ⟨hop, hcount⟩ := addressed_foldl (P := P) late wireWriteData a xs
  rw [writeFrame, List.foldl_concat, frameTake_operand hop, hcount, if_pos ⟨rfl, Nat.le_add_right 2 _⟩]
  rfl

/-- The pointer stays in the page of the frame's address (R67). -/
theorem writeFrame_ptr (xs : List Byte) :
    (writeFrame P late a xs).ptr = pageBase P (startAddr P a) + pageOffset P (startAddr P a) xs.length := by
  induction xs using List.reverseRecOn with
  | nil => exact (pageBase_add_offset _).symm
  | append_singleton xs x ih =>
    rw [writeFrame_snoc, List.length_append, List.length_singleton, ← pageBase_add_succ_mod, ← ih]
    have hpage : (writeFrame P late a xs).ptr - (writeFrame P late a xs).ptr % pageSize P =
        pageBase P (startAddr P a) := by
      rw [ih, pageBase_add_mod, Nat.add_sub_cancel]
    simp only [nextPtr, hpage]
    rw [if_neg (by omega), if_neg (by omega), if_pos trivial]

/-- The offset at which the next byte goes to the page buffer. -/
theorem writeFrame_ptr_mod (xs : List Byte) :
    (writeFrame P late a xs).ptr % pageSize P = pageOffset P (startAddr P a) xs.length := by
  rw [writeFrame_ptr, pageBase_add_mod]

theorem writeFrame_buf_rising (xs : List Byte) : cellsRising (writeFrame P late a xs).buf := by
  induction xs using List.reverseRecOn with
  | nil => exact List.Pairwise.nil
  | append_singleton xs x ih =>
    rw [writeFrame_snoc]
    exact cellsPut_rising _ _ ih

/-- The page buffer holds at each offset the last byte sent to it (R67). -/
theorem writeFrame_buf (xs : List Byte) (o : Nat) :
    cellsGet (writeFrame P late a xs).buf o = (lastSentTo P (startAddr P a) xs.length o).map (xs.getD · 0) := by
  induction xs using List.reverseRecOn with
  | nil => rfl
  | append_singleton xs x ih =>
    rw [writeFrame_snoc, List.length_append, List.length_singleton, lastSentTo_succ]
    simp only [writeFrame_ptr_mod]
    split
    · rename_i h
      rw [h, cellsGet_put_same]
      simp
    · rename_i h
      rw [cellsGet_put_other _ (Ne.symm h), ih]
      refine Option.map_congr fun i hi => ?_
      rw [List.getD_append _ _ _ _ (lastSentTo_lt hi)]

end

/-! ### What lands in the array (R67, R72) -/

section
variable (P : DevParams)

theorem memory_write_rising {m : Memory} (a : Nat) (b : Byte) (h : cellsRising m) :
    cellsRising (Memory.write P m a b) := by
  unfold Memory.write
  split
  · exact cellsDrop_rising a h
  · exact cellsPut_rising a b h

theorem landByte_rising (bp : BitVec 2) (page : Nat) {m : Memory} (c : Host.Cell) (h : cellsRising m) :
    cellsRising (landByte P bp page m c) := by
  unfold landByte
  split
  · exact h
  · exact memory_write_rising P _ _ h

theorem read_landByte_other (bp : BitVec 2) (page : Nat) (m : Memory) {c : Host.Cell} {x : Nat}
    (hx : x ≠ page + c.1) : Memory.read P (landByte P bp page m c) x = Memory.read P m x := by
  unfold landByte
  split
  · rfl
  · exact memory_read_write_other P c.2 hx

theorem read_landByte_same (bp : BitVec 2) (page : Nat) {m : Memory} (c : Host.Cell) (hm : cellsRising m) :
    Memory.read P (landByte P bp page m c) (page + c.1) =
      if prot P bp (page + c.1) then Memory.read P m (page + c.1) else c.2 := by
  unfold landByte
  split
  · rfl
  · exact memory_read_write_same P _ _ hm

/-- An address to which no byte is sent keeps its byte. -/
theorem read_landAll_other (bp : BitVec 2) (page : Nat) (buf : List Host.Cell) (m : Memory) {x : Nat}
    (hx : ∀ c ∈ buf, x ≠ page + c.1) :
    Memory.read P (buf.foldl (landByte P bp page) m) x = Memory.read P m x :=
  List.foldlRecOn (motive := fun m' => Memory.read P m' x = Memory.read P m x) buf _ rfl
    fun m' ih c hc => (read_landByte_other P bp page m' (hx c hc)).trans ih

/-- An address of the page takes the byte that the page buffer lists for it, unless it is protected. -/
theorem read_landAll (bp : BitVec 2) (page : Nat) {buf : List Host.Cell} {m : Memory} (o : Nat)
    (hbuf : cellsRising buf) (hm : cellsRising m) :
    Memory.read P (buf.foldl (landByte P bp page) m) (page + o) =
      if prot P bp (page + o) then Memory.read P m (page + o)
      else (cellsGet buf o).getD (Memory.read P m (page + o)) := by
  induction buf generalizing m with
  | nil => exact (ite_self _).symm
  | cons c t ih =>
    obtain ⟨k, v⟩ := c
    obtain ⟨hfirst, ht⟩ := List.pairwise_cons.1 hbuf
    rw [List.foldl_cons, ih ht (landByte_rising P bp page _ hm)]
    by_cases hk : k = o
    · subst hk
      rw [read_landByte_same P bp page (k, v) hm, cellsGet_eq_none hfirst]
      split <;> simp [cellsGet]
    · have hne : page + o ≠ page + k := by omega
      rw [read_landByte_other P bp page m (c := (k, v)) hne]
      simp [cellsGet, hk]

end

/-! ### The statements about single frames -/

/-- Settles O48. -/
theorem statusReadAlsoWhileBusy : Obligations.StatusReadAlsoWhileBusy := by
  intro P n d x
  have hreply : deviceReply P n [0x05#8] d = deviceStatus d := deviceReply_readStatus P n d
  have hres : ∀ (w : Bool) (r : BitVec 3) (b : BitVec 2) (l y : Bool), statusRes (statusByte w r b l y) = r := by decide
  rw [hreply]
  exact ⟨deviceStatus_decode d, hres _ _ _ _ _, deviceFrame_readStatus P n x d⟩

/-- Settles O49. -/
theorem latchFrames : Obligations.LatchFrames := fun P n _ hb =>
  ⟨deviceFrame_enableWrite P n hb, deviceFrame_disableWrite P n hb⟩

/-- Settles O51. -/
theorem readDataFrame : Obligations.ReadDataFrame := fun P n _ a xs hb =>
  ⟨deviceReply_readData P n hb a xs, deviceFrame_readData P n hb a xs⟩

theorem deviceWriteEnabled_iff (P : DevParams) (d : Device) :
    deviceWriteEnabled P d = true ↔ d.wel = true ∨ P.requiresWel = false := by
  simp [deviceWriteEnabled]

theorem deviceWriteEnabled_false (P : DevParams) (d : Device) (hwel : d.wel = false) (hreq : P.requiresWel = true) :
    deviceWriteEnabled P d = false := by
  simp [deviceWriteEnabled, hwel, hreq]

/-- Bits 2 to 7 of the status register do not depend on `busy` and the latch (R65). -/
theorem statusByte_high_bit (w : Bool) (r : BitVec 3) (b : BitVec 2) (l y l' y' : Bool) {j : Nat} (hj : 2 ≤ j) :
    (statusByte w r b l y).getLsbD j = (statusByte w r b l' y').getLsbD j := by
  have h0 : ¬j < 1 := by omega
  have h1 : ¬j - 1 < 1 := by omega
  simp only [statusByte, BitVec.getLsbD_append, h0, h1]
  rfl

/-- The fields of a status byte put together again are its bits 2 to 7. -/
theorem statusByte_of_fields (s : Byte) (l y : Bool) {j : Nat} (hj : 2 ≤ j) :
    (statusByte (statusWpen s) (statusRes s) (statusBp s) l y).getLsbD j = s.getLsbD j := by
  have h : ∀ s : Byte, statusByte (statusWpen s) (statusRes s) (statusBp s) (statusWen s) (statusRdy s) = s := by decide
  rw [statusByte_high_bit _ _ _ l y (statusWen s) (statusRdy s) hj, h]

theorem mergeStatus_bit (P : DevParams) (old v : Byte) {j : Nat} (hj : j < 8) :
    (mergeStatus P old v).getLsbD j = if P.srMask.getLsbD j then v.getLsbD j else old.getLsbD j := by
  simp only [mergeStatus, BitVec.getLsbD_or, BitVec.getLsbD_and, BitVec.getLsbD_not, hj]
  cases P.srMask.getLsbD j <;> simp

/-- The completion of a status write gives the writable bits the value's (R69, R71). -/
theorem deviceComplete_status_bit (P : DevParams) (m : Nat) {d : Device} {v : Byte} (hp : d.pending = some (.status v))
    {j : Nat} (h2 : 2 ≤ j) (h8 : j < 8) :
    (deviceStatus (deviceComplete P m d)).getLsbD j =
      if P.srMask.getLsbD j then v.getLsbD j else (deviceStatus d).getLsbD j := by
  rw [← mergeStatus_bit P _ v h8, deviceComplete, hp]
  exact statusByte_of_fields _ _ _ h2

/-- Settles O50. -/
theorem writeStatusFrame : Obligations.WriteStatusFrame := by
  intro P n m d v hb
  have hframe : deviceFrame P n [0x01#8, v] d = _ := deviceFrame_writeStatus P n hb v
  refine ⟨fun hen => ?_, fun hwel hreq => ?_⟩
  · rw [hframe, if_pos ((deviceWriteEnabled_iff P d).2 hen)]
    refine ⟨rfl, rfl, rfl, rfl, fun j h2 h8 => ?_⟩
    rw [deviceComplete_status_bit P m rfl h2 h8]
    congr 1
    exact statusByte_high_bit _ _ _ _ _ _ _ h2
  · rw [hframe, if_neg (by simp [deviceWriteEnabled_false P d hwel hreq])]

/-- A write-data frame with data on a device that is not busy (R67, R68). -/
theorem deviceFrame_writeData (P : DevParams) (n : Nat) {d : Device} (hb : deviceBusy d = false) (a : Addr)
    {bytes : List Byte} (hne : bytes ≠ []) :
    deviceFrame P n ([wireWriteData, addrHi a, addrLo a] ++ bytes) d =
      if deviceWriteEnabled P d then
        { d with pending := some (.data (pageBase P (startAddr P a)) (writeFrame P false a bytes).buf), frame := none }
      else { d with frame := none } := by
  obtain ⟨hop, hcount⟩ := addressed_foldl (P := P) false wireWriteData a bytes
  have hlen : 0 < bytes.length := List.length_pos_iff.2 hne
  rw [deviceFrame_data P n hb (by decide), frameEffect_writeData P n _ hop (by omega), ← writeFrame, writeFrame_ptr,
    pageBase_add_mod, Nat.add_sub_cancel]
  rfl

/-- The array after the completion of a data write on the page of `A` (R67). -/
theorem read_after_writeData (P : DevParams) (bp : BitVec 2) (a : Addr) (bytes : List Byte) {m : Memory}
    (hm : cellsRising m) (x : Nat) :
    Memory.read P ((writeFrame P false a bytes).buf.foldl (landByte P bp (pageBase P (startAddr P a))) m) x =
      match (List.range bytes.length).reverse.find?
          (fun i => pageBase P (startAddr P a) + pageOffset P (startAddr P a) i == x) with
      | some i => if prot P bp x then Memory.read P m x else bytes.getD i 0
      | none => Memory.read P m x := by
  by_cases hx : pageBase P (startAddr P a) ≤ x
  · obtain ⟨o, rfl⟩ := Nat.exists_eq_add_of_le hx
    have hfind : ((List.range bytes.length).reverse.find? fun i =>
        pageBase P (startAddr P a) + pageOffset P (startAddr P a) i == pageBase P (startAddr P a) + o) =
          lastSentTo P (startAddr P a) bytes.length o :=
      congrArg (fun p => List.find? p _) (funext fun i => by rw [Bool.eq_iff_iff]; simp)
    rw [read_landAll P bp _ o (writeFrame_buf_rising bytes) hm, writeFrame_buf, hfind]
    cases lastSentTo P (startAddr P a) bytes.length o <;> simp
  · have hfind : ((List.range bytes.length).reverse.find? fun i =>
        pageBase P (startAddr P a) + pageOffset P (startAddr P a) i == x) = none := by
      simp only [List.find?_eq_none, beq_iff_eq]
      omega
    rw [read_landAll_other P bp _ _ _ (fun c _ => by omega), hfind]

/-- With the latch set, or not required, the write starts (R67). -/
theorem deviceFrame_writeData_enabled (P : DevParams) (n : Nat) {d : Device} (hb : deviceBusy d = false) (a : Addr)
    {bytes : List Byte} (hne : bytes ≠ []) (hen : d.wel = true ∨ P.requiresWel = false) :
    deviceFrame P n ([wireWriteData, addrHi a, addrLo a] ++ bytes) d =
      { d with
        pending := some (.data (pageBase P (startAddr P a)) (writeFrame P false a bytes).buf), frame := none } :=
  (deviceFrame_writeData P n hb a hne).trans (if_pos ((deviceWriteEnabled_iff P d).2 hen))

/-- The completion of the write that a write-data frame started (R63, R67). -/
theorem deviceComplete_writeData (P : DevParams) (n m : Nat) {d : Device} (hb : deviceBusy d = false) (a : Addr)
    {bytes : List Byte} (hne : bytes ≠ []) (hen : d.wel = true ∨ P.requiresWel = false) :
    deviceComplete P m (deviceFrame P n ([wireWriteData, addrHi a, addrLo a] ++ bytes) d) =
      { d with
        mem := (writeFrame P false a bytes).buf.foldl (landByte P d.bp (pageBase P (startAddr P a))) d.mem
        pending := none, wel := false, frame := none } := by
  rw [deviceFrame_writeData_enabled P n hb a hne hen]
  rfl

/-- Settles O52. -/
theorem writeDataFrame : Obligations.WriteDataFrame := by
  intro P n m d a bytes hb hm hne hen A f e
  have hf : f = _ := deviceFrame_writeData_enabled P n hb a hne hen
  have he : e = _ := deviceComplete_writeData P n m hb a hne hen
  rw [he, hf]
  exact ⟨rfl, rfl, rfl, rfl, read_after_writeData P d.bp a bytes hm⟩

/-- Settles O53. -/
theorem writeDataWithoutEffect : Obligations.WriteDataWithoutEffect := by
  intro P n d a bytes hb
  refine ⟨fun hne hwel hreq => ?_, ?_⟩
  · have h := deviceFrame_writeData P n hb a hne
    rwa [deviceWriteEnabled_false P d hwel hreq, if_neg Bool.false_ne_true] at h
  · intro f
    have hf : f = { d with wel := freeBit .wel n, pending := if freeBit .busy n then some (.data 0 []) else none,
                           frame := none } :=
      deviceFrame_data P n hb (by decide) a []
    rw [hf]
    refine ⟨rfl, ?_, fun m => ?_⟩
    all_goals cases freeBit .busy n <;> simp [deviceComplete]

/-- Settles O54: the bytes of a data write land with other values, and the write behind a busy after a reset has
none. -/
theorem deviceResetKeepsArray : Obligations.DeviceResetKeepsArray := by
  intro P n m d
  refine ⟨rfl, ?_, fun page buf hp x hx => ?_, ?_⟩
  · rintro (hp | ⟨v, hp⟩) <;> simp only [deviceReset, resetArray, hp]
  · rw [deviceReset, resetArray_data n hp]
    exact read_landAll_other P d.bp page _ d.mem (List.forall_mem_map.2 hx)
  · generalize hr : deviceReset P n d = r
    have hp : r.pending = none ∨ r.pending = some (.data 0 []) := by
      rw [← hr, deviceReset]
      cases freeBit .busy n <;> simp
    rcases hp with hp | hp <;> simp [deviceReset, resetArray, hp]

/-- A byte that does not pass the end of the page goes to the address counted from the start (R67). -/
theorem pageBase_add_pageOffset (P : DevParams) {A i : Nat} (h : A % pageSize P + i < pageSize P) :
    pageBase P A + pageOffset P A i = A + i := by
  have hle : A % pageSize P ≤ A := Nat.mod_le _ _
  rw [pageBase, pageOffset, ← Nat.mod_add_mod, Nat.mod_eq_of_lt h]
  omega

/-- Of the bytes of a frame that stays in its page, byte `k` is the only one sent to address `A + k` (R253). -/
theorem find?_pageSafe (P : DevParams) {A n k : Nat} (hsafe : pageSafe P A n) (hk : k < n) :
    ((List.range n).reverse.find? fun i => pageBase P A + pageOffset P A i == A + k) = some k := by
  have haddr {i : Nat} (hi : i < n) : pageBase P A + pageOffset P A i = A + i :=
    pageBase_add_pageOffset P (by omega)
  cases hfind : (List.range n).reverse.find? fun i => pageBase P A + pageOffset P A i == A + k with
  | none =>
    have hnone := List.find?_eq_none.1 hfind k (by simpa using hk)
    exact absurd (haddr hk) (by simpa using hnone)
  | some j =>
    have hj : j < n := by simpa using List.mem_of_find?_eq_some hfind
    have hsame : pageBase P A + pageOffset P A j = A + k := by simpa using List.find?_some hfind
    rw [haddr hj] at hsame
    rw [Nat.add_left_cancel hsame]

/-- A page-safe range begins and stays inside one page of the array, also where its address is reduced (R75, R253). -/
theorem pageSafe_startAddr (P : DevParams) {a : Addr} {n : Nat} (h : pageSafe P a.toNat n) :
    pageSafe P (startAddr P a) n := by
  rwa [pageSafe, startAddr, Nat.mod_mod_of_dvd _ (pageSize_dvd_memSize P)]

theorem startAddr_add_lt (P : DevParams) {a : Addr} {n k : Nat} (h : pageSafe P (startAddr P a) n) (hk : k < n) :
    startAddr P a + k < memSize P := by
  have hlt : startAddr P a < memSize P := Nat.mod_lt _ (memSize_pos P)
  have hbase : pageBase P (startAddr P a) < memSize P := Nat.lt_of_le_of_lt (Nat.sub_le _ _) hlt
  rw [← pageBase_add_pageOffset P (show startAddr P a % pageSize P + k < pageSize P by omega)]
  exact page_inside P (pageBase_mod _) hbase (Nat.mod_lt _ (pageSize_pos P))

/-- What a write inside one page wrote at unprotected addresses reads back after its completion (R78). -/
theorem writeData_readBack (P : DevParams) (n m r : Nat) {d : Device} (hb : deviceBusy d = false)
    (hm : cellsRising d.mem) (hen : d.wel = true ∨ P.requiresWel = false) {a : Addr} {bytes xs : List Byte}
    (hsafe : pageSafe P a.toNat bytes.length) (hlt : xs.length < bytes.length)
    (hprot : prot P d.bp (startAddr P a + xs.length) = false) :
    deviceReply P r ([wireReadData, addrHi a, addrLo a] ++ xs)
      (deviceComplete P m (deviceFrame P n ([wireWriteData, addrHi a, addrLo a] ++ bytes) d)) =
      bytes.getD xs.length 0 := by
  have hsafe := pageSafe_startAddr P hsafe
  have hne : bytes ≠ [] := List.length_pos_iff.1 (Nat.zero_lt_of_lt hlt)
  rw [deviceComplete_writeData P n m hb a hne hen,
    deviceReply_readData P r rfl a xs (startAddr_add_lt P hsafe hlt), read_after_writeData P d.bp a bytes hm,
    find?_pageSafe P hsafe hlt]
  simp [hprot]

/-- Settles O55: the enable-write frame sets the latch, and what is then written reads back. -/
theorem rangeRoundTrip : Obligations.RangeRoundTrip := by
  intro P n d a bytes xs hb hm hsafe hlt hprot
  rw [show deviceFrame P n [0x06#8] d = _ from deviceFrame_enableWrite P n hb]
  exact writeData_readBack P n n n (d := { d with wel := true, frame := none }) hb hm (.inl rfl) hsafe hlt (hprot _ hlt)

end Sys2Proof.Machine
end

section
/-! SUPPORT. The byte round trip through the controller (20_memory.md R77): what the machine does while its ports play a
list of values, and each of the four commands of the round trip, run on the device of the contract. -/

namespace Sys2Proof.Machine

/-! ### Runs under named ports -/

/-- The machine goes from `s` to `t` in as many steps as `xs` has port values, and emits `l`. -/
structure Plays (xs : List Inputs) (l : List Event) (s t : State) : Prop where
  run : core.run xs.length s = .next t
  trace : t.trace = s.trace ++ l

/-- The data bytes and the responses of a list of events: what the host takes (R34). -/
def hostEvents (l : List Event) : List Event :=
  l.filter fun e => match e with | .rd _ => true | .rsp _ => true | _ => false

theorem hostEvents_append (l l' : List Event) : hostEvents (l ++ l') = hostEvents l ++ hostEvents l' :=
  List.filter_append l l'

/-- The machine goes from `s` to `t` in as many steps as `xs` has port values, and the host takes `host`. -/
def PlaysTo (xs : List Inputs) (host : List Event) (s t : State) : Prop := ∃ l, Plays xs l s t ∧ hostEvents l = host

theorem foldl_snoc {α : Type} (l m : List α) : l.foldl (fun m e => m ++ [e]) m = m ++ l := by
  simp [← List.flatMap_def]

section
variable {M : Host.Core}

theorem run_add {m n : Nat} {s u : M.State} (h : M.run m s = .next u) : M.run (m + n) s = M.run n u := by
  induction m generalizing s with
  | zero => cases h; rw [Nat.zero_add]
  | succ m ih =>
    obtain ⟨s', hs', hrun⟩ := run_succ_eq_next.1 h
    rw [Nat.succ_add, Host.Core.run, hs']
    exact ih hrun

end

section
variable {xs ys : List Inputs} {l l' host host' : List Event} {s t u : State}

/-- A run whose events are given as its steps emit them, one after the other. -/
theorem Plays.of_steps (hrun : core.run xs.length s = .next t)
    (htrace : t.trace = l.foldl (fun m e => m ++ [e]) s.trace) : Plays xs l s t :=
  ⟨hrun, htrace.trans (foldl_snoc l s.trace)⟩

theorem Plays.append (h : Plays xs l s u) (h' : Plays ys l' u t) : Plays (xs ++ ys) (l ++ l') s t :=
  ⟨by rw [List.length_append, run_add h.run, h'.run], by rw [h'.trace, h.trace, List.append_assoc]⟩

theorem PlaysTo.of_steps (l : List Event) (hrun : core.run xs.length s = .next t)
    (htrace : t.trace = l.foldl (fun m e => m ++ [e]) s.trace) (hhost : hostEvents l = host) : PlaysTo xs host s t :=
  ⟨l, .of_steps hrun htrace, hhost⟩

theorem PlaysTo.append (h : PlaysTo xs host s u) (h' : PlaysTo ys host' u t) :
    PlaysTo (xs ++ ys) (host ++ host') s t := by
  obtain ⟨l, hl, hhost⟩ := h
  obtain ⟨l', hl', hhost'⟩ := h'
  exact ⟨l ++ l', hl.append hl', by rw [hostEvents_append, hhost, hhost']⟩

/-- A step moves the ports on by one value. -/
theorem step_ports (h : step s = .next t) (hne : s.script ≠ []) : t.inp :: t.script = s.script := by
  obtain ⟨v, hv, rfl⟩ : ∃ v : State, v.script = s.script ∧ t = nextInputs v := by
    rcases step_cases h with ⟨-, rfl⟩ | ⟨-, -, -, rfl⟩ | ⟨-, i, v, -, hv, rfl⟩
    · exact ⟨resetStep (deviceStep s), rfl, rfl⟩
    · exact ⟨deviceStep s, rfl, rfl⟩
    · obtain ⟨-, hscript, -⟩ := exec_ports hv
      exact ⟨v, hscript, rfl⟩
  rw [nextInputs_inp, nextInputs_script, upcoming_script (hv ▸ hne), hv]
  cases hs : s.script with
  | nil => exact absurd hs hne
  | cons y ys => rfl

theorem run_ports (h : core.run xs.length s = .next t) (hp : xs ++ ys <+: s.inp :: s.script) (hne : ys ≠ []) :
    ys <+: t.inp :: t.script := by
  induction xs generalizing s with
  | nil => cases h; exact hp
  | cons x xs ih =>
    obtain ⟨u, hu, hrun⟩ := (run_succ_eq_next (M := core)).1 h
    obtain ⟨-, hp⟩ := List.cons_prefix_cons.1 hp
    have hscript : s.script ≠ [] := fun hnil => by simp [hnil, hne] at hp
    exact ih hrun (step_ports hu hscript ▸ hp)

theorem PlaysTo.ports (h : PlaysTo xs host s t) (hp : xs ++ ys <+: s.inp :: s.script) (hne : ys ≠ []) :
    ys <+: t.inp :: t.script := by
  obtain ⟨l, hl, -⟩ := h
  exact run_ports hl.run hp hne

/-- The ports that begin with `xs` and then `ys` begin with `xs`. -/
theorem ports_left (hp : xs ++ ys <+: s.inp :: s.script) : xs <+: s.inp :: s.script :=
  (List.prefix_append xs ys).trans hp

end

/-! ### The commands of the round trip on the device of the contract

Each run computes (`rfl`): the named ports decide every condition on its way, whatever the device holds, and the events
are as many as its steps. Longer runs are put together from these. -/

/-- The ports of an ENABLE_WRITE. -/
def enableWriteInputs : List Inputs :=
  [Inputs.command (.enableWrite 0 0 0), Inputs.quiet, Inputs.ackDevice, Inputs.quiet, Inputs.quiet.takeRsp]

/-- The ports of a data command up to the second address byte. -/
def addressInputs (i : Instr) : List Inputs :=
  [Inputs.command i, Inputs.quiet, Inputs.ackDevice, Inputs.ackDevice, Inputs.ackDevice]

/-- The ports of a WRITE_BYTE after that. -/
def writeTailInputs : List Inputs := [Inputs.ackDevice, Inputs.quiet, Inputs.quiet.takeRsp]

/-- The ports of the acceptance of a WAIT_WRITE_COMPLETE. -/
def acceptWaitInputs : List Inputs := [Inputs.command (.waitWriteComplete 0 0 0)]

/-- The ports of a polling frame up to its end; `done` says that the internal write completes before it. -/
def pollInputs (done : Bool) : List Inputs :=
  [{ Inputs.quiet with devDone := done }, Inputs.ackDevice, Inputs.ackDevice]

/-- The ports of the end of a polling frame that read busy, and of the pause after it. -/
def pollAgainInputs : List Inputs := [Inputs.quiet, Inputs.quiet.delayDone]

/-- The ports of the end of a polling frame that read ready, and of the response. -/
def pollReadyInputs : List Inputs := [Inputs.quiet, Inputs.quiet.takeRsp]

/-- The ports of a READ_BYTE after the second address byte. -/
def readTailInputs : List Inputs := [Inputs.ackDevice, Inputs.quiet.takeRd, Inputs.quiet, Inputs.quiet.takeRsp]

/-- The ports of a WRITE_BYTE. -/
def writeByteInputs (a : Addr) (v : Byte) : List Inputs := addressInputs (.writeByte a 0 v) ++ writeTailInputs

/-- The ports of a READ_BYTE. -/
def readByteInputs (a : Addr) : List Inputs := addressInputs (.readByte a 0 0) ++ readTailInputs

/-- The ports of a polling frame and the step after it, where it reads busy. -/
theorem pollBusyInputs_eq : pollBusyInputs = pollInputs false ++ pollAgainInputs := rfl

/-- The ports of a WAIT_WRITE_COMPLETE with `j` polls that read busy and one that reads ready. -/
def waitInputs (j : Nat) : List Inputs :=
  acceptWaitInputs ++ ((List.replicate j pollBusyInputs).flatten ++ (pollInputs true ++ pollReadyInputs))

/-- The round trip is its four commands (R77). -/
theorem byteRoundTripInputs_eq (j : Nat) (a : Addr) (v : Byte) :
    byteRoundTripInputs j a v = enableWriteInputs ++ (writeByteInputs a v ++ (waitInputs j ++ readByteInputs a)) := by
  simp only [byteRoundTripInputs, enableWriteInputs, writeByteInputs, writeTailInputs, waitInputs, acceptWaitInputs,
    pollInputs, pollReadyInputs, readByteInputs, readTailInputs, addressInputs, List.append_assoc, List.cons_append,
    List.nil_append]

section
variable {s : State}

/-- An IDLE controller whose ports begin with `x :: xs`, written out for a run to compute with. -/
theorem idle_eq {x : Inputs} {xs : List Inputs} (hs : s.st = .idle) (hp : x :: xs <+: s.inp :: s.script) :
    ∃ rest, s = { s with st := .idle, inp := x, script := xs ++ rest } := by
  obtain ⟨rfl, rest, hrest⟩ := List.cons_prefix_cons.1 hp
  exact ⟨rest, by rw [← hs, hrest]⟩

theorem plays_enableWrite (hs : s.st = .idle) (hp : enableWriteInputs <+: s.inp :: s.script) :
    ∃ t n, PlaysTo enableWriteInputs [.rsp 0] s t ∧ t.st = .idle ∧
      t.dev = deviceFrame Config.device n [wireEnableWrite] s.dev := by
  obtain ⟨rest, hs⟩ := idle_eq hs hp
  rw [hs]
  exact ⟨_, _, .of_steps [_, _, _, _, _] rfl rfl rfl, rfl, rfl⟩

/-- Byte 3 of the frame of the data command `i` is due, and the device has taken `bytes`. -/
structure ByteDue (i : Instr) (bytes : List Byte) (d : Device) (s : State) : Prop where
  st : s.st = .xchg
  op : s.op = i.op
  cdata : s.cdata = i.data
  k : s.k = 3
  fault : s.fault = false
  dev : s.dev = bytes.foldl (deviceTake Config.device) (deviceCsOn d)

/-- The ports of a controller that is about to exchange byte 3, written out for a run to compute with. -/
theorem ByteDue.eq {i : Instr} {bytes : List Byte} {d : Device} {x : Inputs} {xs : List Inputs}
    (h : ByteDue i bytes d s) (hp : x :: xs <+: s.inp :: s.script) :
    ∃ rest, s = { s with st := .xchg, op := i.op, cdata := i.data, k := 3, fault := false, inp := x,
                         script := xs ++ rest, dev := bytes.foldl (deviceTake Config.device) (deviceCsOn d) } := by
  obtain ⟨rfl, rest, hrest⟩ := List.cons_prefix_cons.1 hp
  exact ⟨rest, by rw [← h.st, ← h.op, ← h.cdata, ← h.k, ← h.fault, ← h.dev, hrest]⟩

theorem plays_writeAddress {a : Addr} {v : Byte} (hs : s.st = .idle)
    (hp : addressInputs (.writeByte a 0 v) <+: s.inp :: s.script) :
    ∃ t, PlaysTo (addressInputs (.writeByte a 0 v)) [] s t ∧
      ByteDue (.writeByte a 0 v) [wireWriteData, addrHi a, addrLo a] s.dev t := by
  obtain ⟨rest, hs⟩ := idle_eq hs hp
  rw [hs]
  exact ⟨_, .of_steps [_, _, _, _, _] rfl rfl rfl, rfl, rfl, rfl, rfl, rfl, rfl⟩

theorem plays_readAddress {a : Addr} (hs : s.st = .idle)
    (hp : addressInputs (.readByte a 0 0) <+: s.inp :: s.script) :
    ∃ t, PlaysTo (addressInputs (.readByte a 0 0)) [] s t ∧
      ByteDue (.readByte a 0 0) [wireReadData, addrHi a, addrLo a] s.dev t := by
  obtain ⟨rest, hs⟩ := idle_eq hs hp
  rw [hs]
  exact ⟨_, .of_steps [_, _, _, _, _] rfl rfl rfl, rfl, rfl, rfl, rfl, rfl, rfl⟩

theorem plays_writeTail {a : Addr} {v : Byte} {bytes : List Byte} {d : Device}
    (h : ByteDue (.writeByte a 0 v) bytes d s) (hp : writeTailInputs <+: s.inp :: s.script) :
    ∃ t n, PlaysTo writeTailInputs [.rsp 0] s t ∧ t.st = .idle ∧
      t.dev = deviceFrame Config.device n (bytes ++ [v]) d := by
  obtain ⟨rest, hs⟩ := h.eq hp
  rw [hs]
  simp only [deviceFrame, List.foldl_append]
  exact ⟨_, _, .of_steps [_, _, _] rfl rfl rfl, rfl, rfl⟩

theorem plays_readTail {a : Addr} {bytes : List Byte} {d : Device} (h : ByteDue (.readByte a 0 0) bytes d s)
    (hp : readTailInputs <+: s.inp :: s.script) :
    ∃ t n tx rx, Plays readTailInputs [.xc tx rx, .rd (deviceReply Config.device n bytes d), .csOff, .rsp 0] s t ∧
      t.st = .idle := by
  obtain ⟨rest, hs⟩ := h.eq hp
  rw [hs]
  exact ⟨_, _, _, _, .of_steps rfl rfl, rfl⟩

theorem plays_writeByte {a : Addr} {v : Byte} (hs : s.st = .idle) (hp : writeByteInputs a v <+: s.inp :: s.script) :
    ∃ t n, PlaysTo (writeByteInputs a v) [.rsp 0] s t ∧ t.st = .idle ∧
      t.dev = deviceFrame Config.device n ([wireWriteData, addrHi a, addrLo a] ++ [v]) s.dev := by
  obtain ⟨u, hu, hdue⟩ := plays_writeAddress hs (ports_left hp)
  obtain ⟨t, n, ht, hst, hdev⟩ := plays_writeTail hdue (hu.ports hp (by simp [writeTailInputs]))
  exact ⟨t, n, hu.append ht, hst, hdev⟩

/-- READ_BYTE delivers what the device answers after the address. -/
theorem plays_readByte {a : Addr} (hs : s.st = .idle) (hp : readByteInputs a <+: s.inp :: s.script) :
    ∃ t n l, Plays (readByteInputs a)
        (l ++ [.rd (deviceReply Config.device n [wireReadData, addrHi a, addrLo a] s.dev), .csOff, .rsp 0]) s t ∧
      hostEvents l = [] ∧ t.st = .idle := by
  obtain ⟨u, ⟨l, hu, hl⟩, hdue⟩ := plays_readAddress hs (ports_left hp)
  obtain ⟨t, n, tx, rx, ht, hst⟩ := plays_readTail hdue (run_ports hu.run hp (by simp [readTailInputs]))
  exact ⟨t, n, l ++ [.xc tx rx], List.append_assoc _ _ _ ▸ hu.append ht, by rw [hostEvents_append, hl]; rfl, hst⟩

/-! ### The wait (R190, R192) -/

/-- A WAIT_WRITE_COMPLETE is about to poll. -/
def AboutToPoll (s : State) : Prop := s.st = .assert ∧ s.op = 0x9 ∧ s.k = 0 ∧ s.fault = false

/-- A polling frame of a WAIT_WRITE_COMPLETE has read the status byte `b` and is about to end. -/
def Polled (b : Byte) (s : State) : Prop := s.st = .deassert ∧ s.op = 0x9 ∧ s.fault = false ∧ s.sr = b

theorem plays_acceptWait (hs : s.st = .idle) (hp : acceptWaitInputs <+: s.inp :: s.script) :
    ∃ t, PlaysTo acceptWaitInputs [] s t ∧ AboutToPoll t ∧ t.dev = s.dev := by
  obtain ⟨rest, hs⟩ := idle_eq hs hp
  rw [hs]
  exact ⟨_, .of_steps [_] rfl rfl rfl, ⟨rfl, rfl, rfl, rfl⟩, rfl⟩

/-- The device that a polling frame meets. -/
def polledDevice (done : Bool) (s : State) : Device :=
  if done then deviceComplete Config.device s.draws s.dev else s.dev

/-- A polling frame reads the status register of the device. -/
theorem plays_poll {done : Bool} (hs : AboutToPoll s) (hp : pollInputs done <+: s.inp :: s.script) :
    ∃ t, PlaysTo (pollInputs done) [] s t ∧ Polled (deviceStatus (polledDevice done s)) t ∧
      ∀ n, deviceCsOff Config.device n t.dev =
        deviceFrame Config.device n [wireReadStatus, Config.dummyByte] (polledDevice done s) := by
  obtain ⟨hinp, rest, hscript⟩ := List.cons_prefix_cons.1 hp
  obtain ⟨hst, hop, hk, hfault⟩ := hs
  have hs : s = { s with st := .assert, op := 0x9, k := 0, fault := false, inp := { Inputs.quiet with devDone := done },
                         script := [Inputs.ackDevice, Inputs.ackDevice] ++ rest } := by
    rw [← hst, ← hop, ← hk, ← hfault, hinp, hscript]
  rw [hs]
  exact ⟨_, .of_steps [_, _, _] rfl rfl rfl, ⟨rfl, rfl, rfl, rfl⟩, fun n => rfl⟩

/-- A WAIT_WRITE_COMPLETE after the end of a polling frame, its next ports being `y` and then `ys`. -/
def pollEnded (s : State) (y : Inputs) (ys : List Inputs) : State :=
  { frameEnded { s with draws := s.draws + 1 } with
    op := 0x9, fault := false, inp := y, script := ys, draws := s.draws + 2 }

/-- At the end of a polling frame bit 0 of its status byte decides between the pause and the response (R192). -/
theorem step_polled {b : Byte} {y : Inputs} {ys : List Inputs} (h : Polled b s)
    (hp : Inputs.quiet :: y :: ys = s.inp :: s.script) :
    step s = .next (if statusRdy b then { pollEnded s y ys with st := .pause }
      else { pollEnded s y ys with code := codeOk, st := .resp }) := by
  obtain ⟨hst, hop, hfault, rfl⟩ := h
  obtain ⟨hinp, hscript⟩ := List.cons.inj hp
  have hs : s = { s with st := .deassert, op := 0x9, fault := false, inp := Inputs.quiet, script := y :: ys } := by
    rw [← hst, ← hop, ← hfault, hinp, hscript]
  rw [hs]
  show Host.Outcome.next (nextInputs (if statusRdy s.sr = true then _ else _)) = _
  split <;> rfl

theorem plays_pollAgain {b : Byte} (h : Polled b s) (hb : statusRdy b = true)
    (hp : pollAgainInputs <+: s.inp :: s.script) :
    ∃ t n, PlaysTo pollAgainInputs [] s t ∧ AboutToPoll t ∧
      t.dev = deviceCsOff Config.device n s.dev := by
  obtain ⟨rest, hp⟩ := hp
  have hstep := step_polled h hp
  rw [if_pos hb] at hstep
  exact ⟨_, _, .of_steps [_, _] ((run_succ_eq_next (M := core)).2 ⟨_, hstep, rfl⟩) rfl rfl, ⟨rfl, rfl, rfl, rfl⟩, rfl⟩

theorem plays_pollReady {b : Byte} (h : Polled b s) (hb : statusRdy b = false)
    (hp : pollReadyInputs <+: s.inp :: s.script) :
    ∃ t n, PlaysTo pollReadyInputs [.rsp 0] s t ∧ t.st = .idle ∧
      t.dev = deviceCsOff Config.device n s.dev := by
  obtain ⟨rest, hp⟩ := hp
  have hstep := step_polled h hp
  rw [if_neg (hb ▸ Bool.false_ne_true)] at hstep
  exact ⟨_, _, .of_steps [_, _] ((run_succ_eq_next (M := core)).2 ⟨_, hstep, rfl⟩) rfl rfl, rfl, rfl⟩

theorem statusRdy_deviceStatus (d : Device) : statusRdy (deviceStatus d) = deviceBusy d :=
  congrArg StatusFields.rdy (deviceStatus_decode d)

/-- One poll of a busy device whose write does not complete: the wait is about to poll again (R193). -/
theorem plays_pollBusy {d : Device} (hs : AboutToPoll s) (hd : s.dev = d) (hframe : d.frame = none)
    (hb : deviceBusy d = true) (hp : pollBusyInputs <+: s.inp :: s.script) :
    ∃ t, PlaysTo pollBusyInputs [] s t ∧ AboutToPoll t ∧ t.dev = d := by
  subst hd
  rw [pollBusyInputs_eq] at hp ⊢
  obtain ⟨u, hu, hpolled, hoff⟩ := plays_poll hs (ports_left hp)
  have hbusy : statusRdy (deviceStatus (polledDevice false s)) = true := (statusRdy_deviceStatus _).trans hb
  obtain ⟨t, n, ht, hagain, hdev⟩ := plays_pollAgain hpolled hbusy (hu.ports hp (by simp [pollAgainInputs]))
  refine ⟨t, hu.append ht, hagain, ?_⟩
  rw [hdev, hoff, deviceFrame_readStatus, ← hframe]
  rfl

/-- Any number of busy polls (R190). -/
theorem plays_busyPolls (j : Nat) {ys : List Inputs} {d : Device} (hne : ys ≠ []) (hs : AboutToPoll s)
    (hd : s.dev = d) (hframe : d.frame = none) (hb : deviceBusy d = true)
    (hp : (List.replicate j pollBusyInputs).flatten ++ ys <+: s.inp :: s.script) :
    ∃ t, PlaysTo (List.replicate j pollBusyInputs).flatten [] s t ∧ AboutToPoll t ∧ t.dev = d := by
  induction j generalizing s with
  | zero => exact ⟨s, .of_steps [] rfl rfl rfl, hs, hd⟩
  | succ j ih =>
    rw [List.replicate_succ, List.flatten_cons] at hp ⊢
    rw [List.append_assoc] at hp
    obtain ⟨u, hu, hagain, hdev⟩ := plays_pollBusy hs hd hframe hb (ports_left hp)
    obtain ⟨t, ht, hend⟩ := ih hagain hdev (hu.ports hp (by simp [hne]))
    exact ⟨t, hu.append ht, hend⟩

/-- The last poll, before which the internal write completes: the wait responds OK (R190, R196). -/
theorem plays_lastPoll (hs : AboutToPoll s) (hp : pollInputs true ++ pollReadyInputs <+: s.inp :: s.script) :
    ∃ t n, PlaysTo (pollInputs true ++ pollReadyInputs) [.rsp 0] s t ∧ t.st = .idle ∧
      t.dev = { deviceComplete Config.device n s.dev with frame := none } := by
  obtain ⟨u, hu, hpolled, hoff⟩ := plays_poll hs (ports_left hp)
  have hready : statusRdy (deviceStatus (polledDevice true s)) = false := by
    rw [statusRdy_deviceStatus]
    exact (deviceComplete_idle Config.device s.draws s.dev).1
  obtain ⟨t, n, ht, hidle, hdev⟩ := plays_pollReady hpolled hready (hu.ports hp (by simp [pollReadyInputs]))
  refine ⟨t, s.draws, hu.append ht, hidle, ?_⟩
  rw [hdev, hoff, deviceFrame_readStatus]
  rfl

/-- WAIT_WRITE_COMPLETE on a busy device, with any number of polls before its write completes. -/
theorem plays_waitWriteComplete (j : Nat) {d : Device} (hs : s.st = .idle) (hd : s.dev = d) (hframe : d.frame = none)
    (hb : deviceBusy d = true) (hp : waitInputs j <+: s.inp :: s.script) :
    ∃ t n, PlaysTo (waitInputs j) [.rsp 0] s t ∧ t.st = .idle ∧
      t.dev = { deviceComplete Config.device n d with frame := none } := by
  obtain ⟨s₁, h₁, hpoll₁, hd₁⟩ := plays_acceptWait hs (ports_left hp)
  have hp := h₁.ports hp (by simp [pollInputs])
  obtain ⟨s₂, h₂, hpoll₂, hd₂⟩ := plays_busyPolls j (by simp [pollInputs]) hpoll₁ (hd₁.trans hd) hframe hb hp
  obtain ⟨t, n, h, hidle, hdev⟩ := plays_lastPoll hpoll₂ (h₂.ports hp (by simp [pollInputs]))
  exact ⟨t, n, h₁.append (h₂.append h), hidle, hd₂ ▸ hdev⟩

end

/-! ### The round trip -/

/-- A page holds one byte at any address. -/
theorem pageSafe_one (P : DevParams) (A : Nat) : pageSafe P A 1 := Nat.mod_lt A (pageSize_pos P)

/-- Settles O56: the four commands in turn, each with what its frame does to the device; the byte reads back by the
range round trip of one byte. -/
theorem byteRoundTrip : Obligations.ByteRoundTrip := by
  intro j a v s rest hidle hb hm hprot hports
  have hp : byteRoundTripInputs j a v <+: s.inp :: s.script := ⟨rest, hports.symm⟩
  rw [byteRoundTripInputs_eq] at hp ⊢
  let enabled : Device := { s.dev with wel := true, frame := none }
  have hv : [v] ≠ [] := List.cons_ne_nil v []
  -- ENABLE_WRITE
  obtain ⟨s₁, n₁, h₁, hidle₁, hd₁⟩ := plays_enableWrite hidle (ports_left hp)
  have hd₁ : s₁.dev = enabled := hd₁.trans (deviceFrame_enableWrite _ _ hb)
  have hp := h₁.ports hp (by simp [writeByteInputs, addressInputs])
  -- WRITE_BYTE
  obtain ⟨s₂, n₂, h₂, hidle₂, hd₂⟩ := plays_writeByte hidle₁ (ports_left hp)
  rw [hd₁] at hd₂
  have hstart := deviceFrame_writeData_enabled Config.device n₂ (d := enabled) hb a hv (.inl rfl)
  have hp := h₂.ports hp (by simp [waitInputs, acceptWaitInputs])
  -- WAIT_WRITE_COMPLETE
  obtain ⟨s₃, n₃, h₃, hidle₃, hd₃⟩ :=
    plays_waitWriteComplete j hidle₂ hd₂ (by rw [hstart]) (by rw [hstart]; rfl) (ports_left hp)
  -- READ_BYTE
  obtain ⟨t, n, l₄, h₄, hl₄, hidle⟩ := plays_readByte hidle₃ (h₃.ports hp (by simp [readByteInputs, addressInputs]))
  have hread : deviceReply Config.device n [wireReadData, addrHi a, addrLo a] s₃.dev = v := by
    rw [hd₃]
    exact writeData_readBack Config.device n₂ n₃ n (d := enabled) (bytes := [v]) (xs := []) hb hm (.inl rfl)
      (pageSafe_one _ _) Nat.one_pos hprot
  rw [hread] at h₄
  obtain ⟨l, hl, hhost⟩ := h₁.append (h₂.append h₃)
  have hall := hl.append h₄
  simp only [List.append_assoc] at hall
  refine ⟨t, l ++ l₄, hall.run, hidle, by simpa only [List.append_assoc] using hall.trace, ?_⟩
  exact (hostEvents_append l l₄).trans (by rw [hhost, hl₄]; rfl)

end Sys2Proof.Machine
end

section
/-! SUPPORT. The command word (30_encoding.md R90 to R96): its fields, the round trip of decoder and encoder, and that
the op field alone selects the row of the opcode table. -/

namespace Sys2Proof

/-! ### The fields of an encoded command (R90) -/

/-- Bit `j` of the word of a command (R90). -/
theorem encode_bit (i : Instr) (j : Nat) :
    (encode i).getLsbD j =
      if j < 4 then i.op.getLsbD j else if j < 8 then false else if j < 16 then i.data.getLsbD (j - 8)
      else if j < 32 then i.addr.getLsbD (j - 16) else if j < 48 then i.len.getLsbD (j - 32) else false :=
  Laws.word_bit i.len i.addr i.data i.op j

@[simp] theorem wordOp_encode (i : Instr) : wordOp (encode i) = i.op :=
  (Laws.word_layout i.len i.addr i.data i.op).1

/-- A field of a word is known by its bits. -/
theorem extractLsb'_eq {w : CmdWord} {start width : Nat} {x : BitVec width}
    (h : ∀ j < width, w.getLsbD (start + j) = x.getLsbD j) : w.extractLsb' start width = x := by
  apply BitVec.eq_of_getElem_eq
  intro j hj
  rw [BitVec.getElem_extractLsb', h j hj, BitVec.getLsbD_eq_getElem hj]

@[simp] theorem wordData_encode (i : Instr) : wordData (encode i) = i.data :=
  extractLsb'_eq fun j hj => by simp (disch := omega) only [encode_bit, if_pos, if_neg, Nat.add_sub_cancel_left]

@[simp] theorem wordAddr_encode (i : Instr) : wordAddr (encode i) = i.addr :=
  extractLsb'_eq fun j hj => by simp (disch := omega) only [encode_bit, if_pos, if_neg, Nat.add_sub_cancel_left]

@[simp] theorem wordLen_encode (i : Instr) : wordLen (encode i) = i.len :=
  extractLsb'_eq fun j hj => by simp (disch := omega) only [encode_bit, if_pos, if_neg, Nat.add_sub_cancel_left]

/-! ### The fields of a decoded command (R92) -/

section
variable (o : OpCode) (a : Addr) (n : Len) (d : Byte)

@[simp] theorem decodePorts_op : (decodePorts o a n d).op = o := (Machine.decodePorts_fields o a n d).1

@[simp] theorem decodePorts_addr : (decodePorts o a n d).addr = a := (Machine.decodePorts_fields o a n d).2.1

@[simp] theorem decodePorts_len : (decodePorts o a n d).len = n := (Machine.decodePorts_fields o a n d).2.2.1

@[simp] theorem decodePorts_data : (decodePorts o a n d).data = d := (Machine.decodePorts_fields o a n d).2.2.2

end

/-- A command is what its own four fields decode to. -/
theorem decodePorts_self (i : Instr) : decodePorts i.op i.addr i.len i.data = i := by
  cases i <;> rfl

@[simp] theorem decodeWord_encode (i : Instr) : decodeWord (encode i) = i := by
  rw [decodeWord, wordOp_encode, wordAddr_encode, wordLen_encode, wordData_encode, decodePorts_self]

/-- Settles O2: each field of the word is that of the command, and a command is what its fields decode to. -/
theorem decodeEncodeRoundTrip : Obligations.DecodeEncodeRoundTrip := decodeWord_encode

/-! ### The reserved bits (R90, R95) -/

/-- The bits of a word that reach a port. -/
theorem readBits_bit : ∀ j < 64, (0x0000FFFFFFFFFF0F#64).getLsbD j =
    if j < 4 then true else if j < 8 then false else decide (j < 48) := by
  decide

/-- A bit of a word inside a field is a bit of the field. -/
theorem field_bit (w : CmdWord) {start width j : Nat} (hlo : start ≤ j) (hhi : j < start + width) :
    (w.extractLsb' start width).getLsbD (j - start) = w.getLsbD j := by
  rw [BitVec.getLsbD_extractLsb', decide_eq_true (by omega), Bool.true_and, Nat.add_sub_cancel' hlo]

theorem encode_decodeWord (w : CmdWord) : encode (decodeWord w) = w &&& 0x0000FFFFFFFFFF0F#64 := by
  apply BitVec.eq_of_getLsbD_eq
  intro j hj
  rw [encode_bit, BitVec.getLsbD_and, readBits_bit j hj, decodeWord, decodePorts_op, decodePorts_addr, decodePorts_len,
    decodePorts_data]
  split_ifs with hop hlow hdata haddr hlen
  · rw [Bool.and_true]
    exact field_bit w (Nat.zero_le j) (by omega)
  · rw [Bool.and_false]
  · rw [decide_eq_true (by omega), Bool.and_true]
    exact field_bit w (by omega) hdata
  · rw [decide_eq_true (by omega), Bool.and_true]
    exact field_bit w (by omega) haddr
  · rw [decide_eq_true hlen, Bool.and_true]
    exact field_bit w (by omega) hlen
  · rw [decide_eq_false hlen, Bool.and_false]

/-- Settles O3: the second part follows from the first, since a decoded word is decoded from its own encoding (O2). -/
theorem reservedBitsIgnored : Obligations.ReservedBitsIgnored := by
  refine ⟨encode_decodeWord, fun w v h => ?_⟩
  calc decodeWord w = decodeWord (encode (decodeWord w)) := (decodeWord_encode _).symm
    _ = decodeWord (encode (decodeWord v)) := by rw [encode_decodeWord, h, ← encode_decodeWord]
    _ = decodeWord v := decodeWord_encode _

/-- Settles O1: the words of the spec, evaluated. -/
theorem specWordsDecode : Obligations.SpecWordsDecode := by
  unfold Obligations.SpecWordsDecode
  decide

/-! ### The op field selects the row (R92, R96) -/

theorem ofOp_op (c : Command) : Command.ofOp c.op = some c := by
  cases c <;> rfl

theorem op_of_ofOp {o : OpCode} {c : Command} (h : Command.ofOp o = some c) : c.op = o := by
  have hall : ∀ o : OpCode, (Command.ofOp o).all (fun c => c.op == o) = true := by decide
  simpa [h] using hall o

/-- The illegal op codes are 0x0 and 0xA to 0xF (R95). -/
theorem ofOp_eq_none_iff : ∀ o : OpCode, Command.ofOp o = none ↔ o = 0x0#4 ∨ 0xA#4 ≤ o := by
  decide

/-- The row of a command in the opcode table is that of its op code with any fields. -/
theorem mnemonic_eq (i : Instr) : i.mnemonic = (decodePorts i.op 0 0 0).mnemonic := by
  cases i <;> rfl

/-- No two op codes have the same row. -/
theorem op_of_mnemonic : ∀ o p : OpCode,
    (decodePorts o 0 0 0).mnemonic = (decodePorts p 0 0 0).mnemonic → o = p := by
  decide

theorem wordOp_and_opMask (w : CmdWord) : wordOp (w &&& 0xF#64) = wordOp w := by
  apply BitVec.eq_of_getElem_eq
  intro j hj
  have hmask : ∀ j < 4, (0xF#64).getLsbD (0 + j) = true := by decide
  rw [wordOp, wordOp, BitVec.getElem_extractLsb', BitVec.getElem_extractLsb', BitVec.getLsbD_and, hmask j hj,
    Bool.and_true]

/-- Settles O4: legal op codes and commands correspond, the decoded command has the op code of the port, and a row is
named by its op code. -/
theorem decodingTotalByOp : Obligations.DecodingTotalByOp := by
  refine ⟨fun o => ?_, fun c => ⟨ofOp_op c, ?_⟩, decodePorts_op, fun w v h => ?_, fun i j h => ?_⟩
  · cases hc : Command.ofOp o with
    | some c => exact .inl ⟨c, rfl, op_of_ofOp hc⟩
    | none => exact .inr ⟨rfl, (ofOp_eq_none_iff o).1 hc⟩
  · cases c <;> decide
  · have hop : wordOp w = wordOp v := by rw [← wordOp_and_opMask, h, wordOp_and_opMask]
    rw [mnemonic_eq, mnemonic_eq (decodeWord v)]
    simp only [decodeWord, decodePorts_op, hop]
  · rw [mnemonic_eq, mnemonic_eq j] at h
    exact op_of_mnemonic _ _ h

end Sys2Proof
end

section
/-! SUPPORT. The formatter (30_encoding.md R101 to R109): frame lengths, the bytes of a frame, and its first byte. -/

namespace Sys2Proof.Machine

/-! ### Frame lengths (R104) -/

theorem rangeLen_toNat (n : Len) : (3 + n.setWidth 17 : Pos).toNat = 3 + n.toNat := by
  bv_omega

theorem frameLen_le (c : Command) (n : Len) : frameLen c n ≤ 65538 := by
  cases c <;> simp only [frameLen] <;> bv_omega

/-- Settles O5: the ranges are the two commands whose frame has no fixed length; an illegal op code is answered in the
step that accepts it. -/
theorem frameLengths : Obligations.FrameLengths := by
  refine ⟨fun n => ⟨rfl, rfl, rfl, rfl, rfl, rfl, rfl, rangeLen_toNat n, rangeLen_toNat n⟩,
    fun c n => ⟨frameLen_pos c n, frameLen_le c n⟩, fun o a n d s hc hs => ?_⟩
  have hstep : exec (decodePorts o a n d) s = .next (acceptIllegal o a n d s) := by
    rw [exec_illegal (by rwa [decodePorts_op]), decodePorts_op, decodePorts_addr, decodePorts_len, decodePorts_data,
      illegalStep, hs]
  exact ⟨_, hstep, rfl, rfl⟩

/-! ### The bytes of a frame (R103, R105, R106) -/

/-- The range commands send the frame of the byte commands, with `r.wbuf` for `r.cdata` (R105). -/
theorem txByte_readRange (k : Pos) (a : Addr) (d w : Byte) : txByte .readRange k a d w = txByte .readByte k a d w := rfl

theorem txByte_writeRange (k : Pos) (a : Addr) (d w : Byte) : txByte .writeRange k a d w = txByte .writeByte k a w d :=
  rfl

/-- From position 3 on a reading data frame sends dummy bytes. -/
theorem txByte_readByte_data {k : Pos} (hk : 3 ≤ k) (a : Addr) (d w : Byte) :
    txByte .readByte k a d w = Config.dummyByte := by
  rw [txByte, if_neg (by bv_omega), if_neg (by bv_omega), if_neg (by bv_omega)]

/-- From position 3 on a writing data frame sends the byte to write. -/
theorem txByte_writeByte_data {k : Pos} (hk : 3 ≤ k) (a : Addr) (d w : Byte) : txByte .writeByte k a d w = d := by
  rw [txByte, if_neg (by bv_omega), if_neg (by bv_omega), if_neg (by bv_omega)]

/-- The values at the first `3 + n` positions, when all from position 3 on are the same. -/
theorem map_range_three_add {f : Nat → Byte} {n : Nat} {x : Byte} (h : ∀ k < n, f (3 + k) = x) :
    (List.range (3 + n)).map f = f 0 :: f 1 :: f 2 :: List.replicate n x := by
  have htail : (List.range n).map (fun k => f (3 + k)) = List.replicate n x := by
    refine List.eq_replicate_iff.2 ⟨by simp, fun b hb => ?_⟩
    obtain ⟨k, hk, rfl⟩ := List.mem_map.1 hb
    exact h k (List.mem_range.1 hk)
  rw [List.range_add, List.map_append, List.map_map]
  exact congrArg _ htail

/-- A position of a range frame past the address bytes is at least 3, for it fits in 17 bits. -/
theorem three_le_ofNat {n : Len} {k : Nat} (hk : k < n.toNat) : (3 : Pos) ≤ BitVec.ofNat 17 (3 + k) := by
  bv_omega

/-- Settles O6: the short frames byte by byte; a range frame has its three address positions and then one byte over and
over. -/
theorem frameBytes : Obligations.FrameBytes := by
  intro a n d w
  refine ⟨rfl, rfl, rfl, rfl, rfl, rfl, rfl, ?_, ?_⟩
  · show (List.range (frameLen .readRange n).toNat).map _ = _
    rw [frameLen, rangeLen_toNat]
    exact map_range_three_add fun k hk =>
      (txByte_readRange _ a d w).trans (txByte_readByte_data (three_le_ofNat hk) a d w)
  · show (List.range (frameLen .writeRange n).toNat).map _ = _
    rw [frameLen, rangeLen_toNat]
    exact map_range_three_add fun k hk =>
      (txByte_writeRange _ a d w).trans (txByte_writeByte_data (three_le_ofNat hk) a w d)

/-- Settles O7: the bytes agree at every position; the received byte is delivered at position 3, the last one. -/
theorem byteAndRangeFramesAgree : Obligations.ByteAndRangeFramesAgree := by
  intro a n v d w k
  refine ⟨rfl, rfl, fun hk => ⟨(txByte_readRange k a d w).symm, ?_, (txByte_writeRange k a d v).symm, rfl⟩⟩
  have hlast : k = 3 ↔ 3 ≤ k := by
    have hk : k < 4 := hk
    constructor <;> bv_omega
  simp only [rxUse, hlast]

/-! ### The wire opcodes (R101, R102) -/

/-- The first byte of a frame reads no register. -/
theorem txByte_zero (c : Command) (a : Addr) (d w : Byte) : txByte c 0 a d w = txByte c 0 0 0 0 := by
  cases c <;> rfl

/-- Settles O8: one wire opcode for each command. -/
theorem sixWireOpcodes : Obligations.SixWireOpcodes := by
  intro c a d w
  rw [txByte_zero]
  cases c <;> decide

end Sys2Proof.Machine
end

section
/-! SUPPORT. The step that is due: the word presented is the instruction that runs (30_encoding.md R90,
40_transaction.md R121), and no step stops in a fault (R95, R210). -/

namespace Sys2Proof.Machine

/-- A step without reset is the step of the command that is due (R120). -/
theorem step_due {s : State} {i : Instr} (hr : s.inp.rst = false) (hf : fetchInstr (deviceStep s) = some i) :
    step s = thenNextInputs (exec i (deviceStep s)) := by
  simp [step, hr, hf]

/-- The command due after a word is presented is the one it decodes to. -/
theorem fetchInstr_presentWord (s : State) (w : CmdWord) :
    fetchInstr (deviceStep (presentWord s w)) = some (decodeWord w) :=
  fetchInstr_idle rfl rfl

/-- Settles O11: what the table reads from the word is what its ports decode to. -/
theorem presentedWordRuns : Obligations.PresentedWordRuns := by
  intro s nbits w hbits
  exact ⟨_, if_pos hbits, step_due rfl (fetchInstr_presentWord s _)⟩

/-- A legal command has a step in every state. -/
theorem commandStep_next (c : Command) (a : Addr) (n : Len) (d : Byte) (s : State) :
    ∃ t, commandStep c a n d s = .next t := by
  cases h : s.st <;> exact ⟨_, by rw [commandStep, h]⟩

/-- An illegal op code has a step in every state but the two inside a frame (R95). -/
theorem illegalStep_next {s : State} (hx : s.st ≠ .xchg) (hd : s.st ≠ .deliver) (o : OpCode) (a : Addr) (n : Len)
    (d : Byte) : ∃ t, illegalStep o a n d s = .next t := by
  rcases illegalStep_cases o a n d s with
    ⟨-, h⟩ | ⟨-, h⟩ | ⟨-, h⟩ | ⟨hs, -⟩ | ⟨-, h⟩ | ⟨-, h⟩ | ⟨-, h⟩
  case inr.inr.inr.inl => exact absurd hs (not_or_intro hx hd)
  all_goals exact ⟨_, h⟩

/-- Inside a frame the latched op is legal. -/
theorem posInv_legal {s : State} (hp : PosInv s) (hs : s.st = .xchg ∨ s.st = .deliver) :
    Command.ofOp s.op ≠ none := by
  rcases hs with hs | hs <;>
    · simp only [PosInv, hs] at hp
      obtain ⟨c, hc, -⟩ := hp
      simp [hc]

/-- The command that is due has a step in every state whose position is in range. -/
theorem exec_next {i : Instr} {s : State} (hi : s.st ≠ .idle → i.op = s.op) (hp : PosInv s) :
    ∃ t, exec i s = .next t := by
  cases hc : Command.ofOp i.op with
  | some c =>
    rw [(exec_legal hc s).2]
    exact commandStep_next c _ _ _ s
  | none =>
    rw [exec_illegal hc]
    have hout : ¬(s.st = .xchg ∨ s.st = .deliver) := by
      intro hs
      have hidle : s.st ≠ .idle := by rcases hs with hs | hs <;> simp [hs]
      exact posInv_legal hp hs (by rw [← hi hidle, hc])
    obtain ⟨hx, hd⟩ := not_or.1 hout
    exact illegalStep_next hx hd _ _ _ _

/-- Settles O40: a reset step and a held step go on; the command that is due is legal inside a frame. -/
theorem stepsNeverStop : Obligations.StepsNeverStop := by
  intro s hp
  cases hr : s.inp.rst with
  | true => exact ⟨_, by rw [step, if_pos hr]⟩
  | false =>
    cases hf : fetchInstr (deviceStep s) with
    | none => exact ⟨_, by rw [step, if_neg (by simp [hr]), hf]⟩
    | some i =>
      obtain ⟨t, ht⟩ := exec_next (s := deviceStep s) (fetchInstr_op hf) hp
      exact ⟨nextInputs t, by rw [step_due hr hf, ht, thenNextInputs]⟩

end Sys2Proof.Machine
end

section
/-! SUPPORT. The pseudo-instruction WRITE_PAGED (30_encoding.md R111): what its chunks hold, and that its lines keep the
host's duties (70_reset R250, R251, R253). -/

namespace Sys2Proof.Machine

/-! ### The chunks (R111, R253) -/

section
variable {page : Nat}

@[simp] theorem pagedChunks_nil (fuel a : Nat) : pagedChunks page fuel a [] = [] := by
  cases fuel <;> rfl

/-- The length of the first chunk of `n` bytes at `a`: up to the end of the page (R111). -/
abbrev chunkLen (page a n : Nat) : Nat := min (page - a % page) n

theorem pagedChunks_succ (fuel a : Nat) {bytes : List Byte} (hb : bytes ≠ []) :
    pagedChunks page (fuel + 1) a bytes =
      (a, bytes.take (chunkLen page a bytes.length)) ::
        pagedChunks page fuel (a + chunkLen page a bytes.length) (bytes.drop (chunkLen page a bytes.length)) := by
  rw [pagedChunks, if_neg (by simpa using hb)]

/-- A chunk takes at least one byte. -/
theorem chunkLen_pos (hpage : 0 < page) (a : Nat) {bytes : List Byte} (hb : bytes ≠ []) :
    0 < chunkLen page a bytes.length :=
  lt_min (Nat.sub_pos_of_lt (Nat.mod_lt a hpage)) (List.length_pos_iff.2 hb)

/-- The chunks hold the bytes in order, when the fuel is their number or more. -/
theorem pagedChunks_flatten (hpage : 0 < page) {fuel : Nat} (a : Nat) {bytes : List Byte}
    (hfuel : bytes.length ≤ fuel) : ((pagedChunks page fuel a bytes).map Prod.snd).flatten = bytes := by
  induction fuel generalizing a bytes with
  | zero => simp [List.length_eq_zero_iff.1 (Nat.le_zero.1 hfuel)]
  | succ fuel ih =>
    by_cases hb : bytes = []
    · simp [hb]
    · have hpos := chunkLen_pos hpage a hb
      rw [pagedChunks_succ fuel a hb, List.map_cons, List.flatten_cons, ih _ (by rw [List.length_drop]; omega),
        List.take_append_drop]

/-- A chunk is not empty and ends in the page in which it starts. -/
theorem pagedChunks_pageSafe (hpage : 0 < page) (fuel a : Nat) (bytes : List Byte) :
    ∀ c ∈ pagedChunks page fuel a bytes, c.2 ≠ [] ∧ c.1 % page + c.2.length ≤ page := by
  induction fuel generalizing a bytes with
  | zero => simp [pagedChunks]
  | succ fuel ih =>
    by_cases hb : bytes = []
    · simp [hb]
    · rw [pagedChunks_succ fuel a hb]
      refine List.forall_mem_cons.2 ⟨⟨?_, ?_⟩, ih _ _⟩
      · have hpos := chunkLen_pos hpage a hb
        simp only [ne_eq, List.take_eq_nil_iff, hb, or_false]
        omega
      · have hroom : chunkLen page a bytes.length ≤ page - a % page := min_le_left _ _
        have hlt := Nat.mod_lt a hpage
        calc a % page + (bytes.take _).length ≤ a % page + chunkLen page a bytes.length :=
              Nat.add_le_add_left (List.length_take_le _ _) _
          _ ≤ page := by omega

/-- A chunk starts where the one before it ended. -/
theorem pagedChunks_contiguous {fuel a : Nat} {bytes : List Byte} {pre post : List (Nat × List Byte)}
    {c : Nat × List Byte} (h : pagedChunks page fuel a bytes = pre ++ c :: post) :
    c.1 = a + ((pre.map Prod.snd).flatten).length := by
  induction fuel generalizing a bytes pre with
  | zero => simp [pagedChunks] at h
  | succ fuel ih =>
    by_cases hb : bytes = []
    · simp [hb] at h
    · rw [pagedChunks_succ fuel a hb] at h
      cases pre with
      | nil =>
        obtain ⟨rfl, -⟩ := List.cons.inj h
        rfl
      | cons b pre =>
        obtain ⟨rfl, htail⟩ := List.cons.inj h
        rw [ih htail]
        simp
        omega

end

/-- Settles O59: a page has at least one byte, so every chunk takes one and the bytes do not run out of fuel. -/
theorem pagedChunksStayInPages : Obligations.PagedChunksStayInPages := fun P a bytes =>
  ⟨pagedChunks_flatten (pageSize_pos P) a le_rfl, pagedChunks_pageSafe (pageSize_pos P) _ a bytes,
    fun _ _ _ h => pagedChunks_contiguous h⟩

/-! ### The lines (R110, R250, R251) -/

/-- The command words of the lines of one chunk, as commands, each with its write-data stream. -/
def chunkCommands (c : Nat × List Byte) : List (Instr × List Byte) :=
  [(.enableWrite 0 0 0, []), (.writeRange (BitVec.ofNat 16 c.1) (BitVec.ofNat 16 c.2.length) 0, c.2),
   (.waitWriteComplete 0 0 0, [])]

section
variable (P : DevParams) (a : Addr) (bytes : List Byte)

theorem writePaged_commands :
    (writePaged P a bytes).map (fun l => (decodeWord (asmWord l), asmStream l)) =
      (pagedChunks (pageSize P) bytes.length a.toNat bytes).flatMap chunkCommands := by
  rw [writePaged, List.map_flatMap]
  congr 1
  funext c
  simp [writeRangeSync, asmWord, asmStream, chunkCommands]

/-- The lines of a chunk keep the duties, and leave no write in progress and the latch not known set. -/
theorem disciplined_chunk (c : Nat × List Byte) (rest : List Instr) :
    disciplined false false ((chunkCommands c).map Prod.fst ++ rest) = disciplined false false rest := by
  simp [chunkCommands, disciplined]

theorem disciplined_chunks (cs : List (Nat × List Byte)) :
    disciplined false false ((cs.flatMap chunkCommands).map Prod.fst) = true := by
  induction cs with
  | nil => rfl
  | cons c cs ih => rw [List.flatMap_cons, List.map_append, disciplined_chunk, ih]

theorem writePaged_disciplined :
    disciplined false false ((writePaged P a bytes).map (fun l => decodeWord (asmWord l))) = true := by
  have h := disciplined_chunks (pagedChunks (pageSize P) bytes.length a.toNat bytes)
  rwa [← writePaged_commands, List.map_map] at h

/-- The streams of the lines are the bytes of the chunks. -/
theorem chunkCommands_streams (cs : List (Nat × List Byte)) :
    ((cs.flatMap chunkCommands).map Prod.snd).flatten = (cs.map Prod.snd).flatten := by
  induction cs with
  | nil => rfl
  | cons c cs ih =>
    rw [List.flatMap_cons, List.map_append, List.flatten_append, ih, List.map_cons, List.flatten_cons]
    simp [chunkCommands]

theorem writePaged_streams : ((writePaged P a bytes).map asmStream).flatten = bytes := by
  have h := chunkCommands_streams (pagedChunks (pageSize P) bytes.length a.toNat bytes)
  rwa [← writePaged_commands, List.map_map, pagedChunks_flatten (pageSize_pos P) _ le_rfl] at h

/-- A chunk is no longer than the list. -/
theorem length_chunk_le {c : Nat × List Byte} (hc : c ∈ pagedChunks (pageSize P) bytes.length a.toNat bytes) :
    c.2.length ≤ bytes.length := by
  have hsub := (List.sublist_flatten_of_mem (List.mem_map_of_mem (f := Prod.snd) hc)).length_le
  rwa [pagedChunks_flatten (pageSize_pos P) _ le_rfl] at hsub

theorem writeRangeSync_wf (s : Addr) {bs : List Byte} (hlen : bs.length < 65536) :
    AsmLine.programWf (writeRangeSync s bs) = true := by
  simp [AsmLine.programWf, writeRangeSync, AsmLine.wf, Nat.mod_eq_of_lt hlen]

theorem writePaged_wf (hlen : bytes.length < 65536) : AsmLine.programWf (writePaged P a bytes) = true := by
  rw [AsmLine.programWf, writePaged, List.all_flatMap, List.all_eq_true]
  exact fun c hc => writeRangeSync_wf _ (lt_of_le_of_lt (length_chunk_le P a bytes hc) hlen)

end

/-- Settles O60: each chunk is three lines that begin and end with no write in progress, and a chunk is no longer than
the list, so its length fits in the word. -/
theorem pagedWriteIsDisciplined : Obligations.PagedWriteIsDisciplined := fun P a bytes hlen =>
  ⟨writePaged_disciplined P a bytes, writePaged_wf P a bytes hlen, writePaged_commands P a bytes,
    writePaged_streams P a bytes⟩

end Sys2Proof.Machine
end

section
/-! SUPPORT. The trace in order (40_transaction.md R130 to R134): each step of a command emits an event that may stand
where the trace stands, and leaves the state at the place of the trace after it. -/

namespace Sys2Proof.Machine

/-- A position inside a frame is not the last one, so the position after it does not wrap (R25, R104). -/
theorem pos_succ_toNat {k n : Pos} (h : k < n) : (k + 1).toNat = k.toNat + 1 := by bv_omega

/-! ### The place of a trace -/

theorem phaseOf_snoc (l : List Event) (e : Event) : phaseOf (l ++ [e]) = (phaseOf l).bind (phaseStep · e) := by
  rw [phaseOf, List.foldl_append]
  rfl

/-- An event that may stand where the trace of `s` stands, and leads to the place of `t`, keeps the trace in order. -/
theorem traceInv_snoc {s t : State} {e : Event} (hs : TraceInv s) (htrace : t.trace = s.trace ++ [e])
    (hphase : phaseStep (statePhase s) e = some (statePhase t)) : TraceInv t := by
  rw [TraceInv, htrace, phaseOf_snoc, hs]
  exact hphase

/-- Reset ends every command (R241). -/
theorem phaseStep_rst (p : Phase) : phaseStep p .rst = some .rest := by cases p <;> rfl

section
variable {s : State} {c : Command}

theorem statePhase_idle (hs : s.st = .idle) : statePhase s = .rest := by rw [statePhase, hs]

theorem statePhase_assert (hs : s.st = .assert) : statePhase s = .accepted s.op s.len := by rw [statePhase, hs]

theorem statePhase_fetch (hs : s.st = .fetch) : statePhase s = .framed s.op s.len s.k.toNat := by rw [statePhase, hs]

theorem statePhase_xchg (hs : s.st = .xchg) : statePhase s = .framed s.op s.len s.k.toNat := by rw [statePhase, hs]

theorem statePhase_deliver (hs : s.st = .deliver) : statePhase s = .framed s.op s.len (s.k.toNat + 1) := by
  rw [statePhase, hs]

theorem statePhase_broken (hs : s.st = .deassert) (hf : s.fault = true) : statePhase s = .broken s.op s.len := by
  simp [statePhase, hs, hf]

theorem statePhase_complete (hs : s.st = .deassert) (hf : s.fault = false) :
    statePhase s = .framed s.op s.len s.k.toNat := by
  simp [statePhase, hs, hf]

theorem statePhase_pause (hs : s.st = .pause) : statePhase s = .closed s.op s.len := by rw [statePhase, hs]

/-- Whatever state Advance chooses, it stands behind the byte just exchanged (R125). -/
theorem statePhase_advance (hk : s.k < frameLen c s.len) (hf : s.fault = false) :
    statePhase (advance c s) = .framed s.op s.len (s.k.toNat + 1) := by
  rw [← pos_succ_toNat hk]
  by_cases hend : s.k + 1 = frameLen c s.len
  · exact statePhase_complete (by rw [advance_st, if_pos hend]) hf
  · by_cases hn : needsFetch c (s.k + 1) = true
    · exact statePhase_fetch (by rw [advance_st, if_neg hend, if_pos hn])
    · exact statePhase_xchg (by rw [advance_st, if_neg hend, if_neg hn])

/-! ### The event of each state may stand where the trace stands -/

/-- A frame opens for a legal command, with no byte exchanged (R122). -/
theorem phaseStep_csOn (hp : PosInv s) (hs : s.st = .assert) :
    phaseStep (statePhase s) .csOn = some (.framed s.op s.len s.k.toNat) := by
  simp only [PosInv, hs] at hp
  obtain ⟨⟨c, hc⟩, hk, -⟩ := hp
  simp [statePhase_assert hs, phaseStep, hc, hk]

/-- Only WRITE_RANGE fetches (R107). -/
theorem phaseStep_wd (hp : PosInv s) (hs : s.st = .fetch) (b : Byte) :
    phaseStep (statePhase s) (.wd b) = some (statePhase s) := by
  simp only [PosInv, hs] at hp
  obtain ⟨hc, -⟩ := hp
  rw [statePhase_fetch hs]
  exact if_pos (op_of_ofOp hc).symm

/-- A frame that no fault cut closes at its full length (R104). -/
theorem phaseStep_csOff (hp : PosInv s) (hs : s.st = .deassert) (hf : s.fault = false) :
    phaseStep (statePhase s) .csOff = some (.closed s.op s.len) := by
  simp only [PosInv, hs, hf, Bool.false_eq_true, if_false] at hp
  obtain ⟨c, hc, hk⟩ := hp
  simp [statePhase_complete hs hf, phaseStep, hc, hk]

/-- Only WAIT_WRITE_COMPLETE pauses (R193). -/
theorem phaseStep_dly (hp : PosInv s) (hs : s.st = .pause) (n : Nat) :
    phaseStep (statePhase s) (.dly n) = some (.accepted s.op s.len) := by
  simp only [PosInv, hs] at hp
  obtain ⟨hc, -⟩ := hp
  rw [statePhase_pause hs]
  exact if_pos (op_of_ofOp hc).symm

/-- The response codes but the reserved one (R211). -/
theorem code_eq_ok : ∀ {e : Code}, e ≠ 3 → e ≠ codeIllegalOp → e ≠ codeTransportFault → e = codeOk := by decide

/-- The response gives the code that the place of the trace asks for (R211). -/
theorem phaseStep_rsp (hp : PosInv s) (hs : s.st = .resp) : phaseStep (statePhase s) (.rsp s.code) = some .rest := by
  simp only [PosInv, hs] at hp
  obtain ⟨hreserved, hillegal⟩ := hp
  simp only [statePhase, hs]
  split_ifs with hi ht
  · exact if_pos ⟨Option.isNone_iff_eq_none.2 (hillegal.1 hi), hi⟩
  · exact if_pos ht
  · exact if_pos (code_eq_ok hreserved hi ht)

end

/-! ### Every step -/

/-- A step of the command that is due keeps the trace in order. -/
theorem exec_keeps_traceInv {i : Instr} {s t : State} (hi : s.st ≠ .idle → i.op = s.op) (hp : PosInv s)
    (htr : TraceInv s) (h : exec i s = .next t) : TraceInv t := by
  cases exec_move h with
  | hold => exact htr
  | acceptLegal c hs | acceptIllegal hs => exact traceInv_snoc htr rfl (by rw [statePhase_idle hs]; rfl)
  | assert hs => exact traceInv_snoc htr rfl (phaseStep_csOn hp hs)
  | fetch hs => exact traceInv_snoc htr rfl ((phaseStep_wd hp hs _).trans (by rw [statePhase_fetch hs]; rfl))
  | fault c hs | receive c hs => exact traceInv_snoc htr rfl (by rw [statePhase_xchg hs]; rfl)
  | poll c hs hc | discard c hs hc =>
    rw [hi (by simp [hs])] at hc
    obtain ⟨hk, hf⟩ := posInv_xchg hp hs hc
    refine traceInv_snoc htr rfl ?_
    rw [statePhase_xchg hs]
    exact congrArg some (statePhase_advance hk hf).symm
  | deliver c hs hc =>
    rw [hi (by simp [hs])] at hc
    obtain ⟨-, hk, hf⟩ := posInv_deliver hp hs hc
    refine traceInv_snoc htr rfl ?_
    rw [statePhase_deliver hs]
    exact congrArg some (statePhase_advance hk hf).symm
  | failed hs hf => exact traceInv_snoc htr rfl (by rw [statePhase_broken hs hf]; rfl)
  | pollAgain hs hf | finished hs hf => exact traceInv_snoc htr rfl (phaseStep_csOff hp hs hf)
  | pause hs => exact traceInv_snoc htr rfl (phaseStep_dly hp hs _)
  | respond hs => exact traceInv_snoc htr rfl (phaseStep_rsp hp hs)

/-- Settles O41: a reset step brings the trace to rest, a held step emits nothing, and every other step is one of the
command that is due. -/
theorem traceStaysInOrder : Obligations.TraceStaysInOrder := by
  intro s t hp htr h
  rcases step_cases h with ⟨-, rfl⟩ | ⟨-, -, -, rfl⟩ | ⟨-, i, u, hi, hu, rfl⟩
  · exact traceInv_snoc htr rfl (phaseStep_rst _)
  · exact htr
  · exact exec_keeps_traceInv (s := deviceStep s) (t := u) (fetchInstr_op hi) hp htr hu

end Sys2Proof.Machine
end

section
/-! SUPPORT. The steps of 40_transaction.md R121 to R129: what a command means in each state, what each state does by
the conditions it tests, and the statements about single steps. -/

namespace Sys2Proof.Machine

/-! ### The meaning of a command in each state (R120) -/

section
variable {i : Instr} {c : Command} {s : State} {o : Host.Outcome State Fault Refusal}

/-- What a legal command and an illegal op code do alike, every command does. -/
theorem exec_eq_of (hlegal : ∀ c, c.op = i.op → commandStep c i.addr i.len i.data s = o)
    (hillegal : Command.ofOp i.op = none → illegalStep i.op i.addr i.len i.data s = o) : exec i s = o := by
  cases hc : Command.ofOp i.op with
  | some c => exact (exec_legal hc s).2.trans (hlegal c (exec_legal hc s).1)
  | none => exact (exec_illegal hc s).trans (hillegal hc)

theorem exec_idle_legal (hs : s.st = .idle) (hc : Command.ofOp i.op = some c) :
    exec i s = .next (acceptLegal i.op i.addr i.len i.data s) := by
  rw [(exec_legal hc s).2, commandStep, hs, (exec_legal hc s).1]

theorem exec_idle_illegal (hs : s.st = .idle) (hc : Command.ofOp i.op = none) :
    exec i s = .next (acceptIllegal i.op i.addr i.len i.data s) := by
  rw [exec_illegal hc, illegalStep, hs]

theorem exec_assert (hs : s.st = .assert) : exec i s = .next (assertStep s) :=
  exec_eq_of (fun c _ => by rw [commandStep, hs]) (fun _ => by rw [illegalStep, hs])

theorem exec_fetch (hs : s.st = .fetch) : exec i s = .next (fetchStep s) :=
  exec_eq_of (fun c _ => by rw [commandStep, hs]) (fun _ => by rw [illegalStep, hs])

theorem exec_xchg (hs : s.st = .xchg) (hc : Command.ofOp i.op = some c) : exec i s = .next (xchgStep c s) := by
  rw [(exec_legal hc s).2, commandStep, hs]

theorem exec_deliver (hs : s.st = .deliver) (hc : Command.ofOp i.op = some c) :
    exec i s = .next (deliverStep c s) := by
  rw [(exec_legal hc s).2, commandStep, hs]

/-- The one command with a poll decision at the end of its frame is op code 0x9 (R192). -/
theorem exec_deassert (hs : s.st = .deassert) : exec i s = .next (deassertStep (i.op == 0x9#4) s) := by
  refine exec_eq_of (fun c hc => ?_) (fun hc => ?_)
  · have hwait : (c == .waitWriteComplete) = (c.op == 0x9#4) := by cases c <;> rfl
    rw [commandStep, hs, ← hc, hwait]
  · have hwait : (i.op == 0x9#4) = false := beq_false_of_ne fun h => by simp [h, Command.ofOp] at hc
    rw [illegalStep, hs, hwait]

theorem exec_pause (hs : s.st = .pause) : exec i s = .next (pauseStep s) :=
  exec_eq_of (fun c _ => by rw [commandStep, hs]) (fun _ => by rw [illegalStep, hs])

theorem exec_resp (hs : s.st = .resp) : exec i s = .next (respStep s) :=
  exec_eq_of (fun c _ => by rw [commandStep, hs]) (fun _ => by rw [illegalStep, hs])

/-- An illegal op code has no byte to exchange and no frame to advance in (R95, R104; log 19). -/
theorem exec_illegal_inFrame (hs : s.st = .xchg ∨ s.st = .deliver) (hc : Command.ofOp i.op = none) :
    exec i s = .fault .illegalOpInFrame := by
  rcases hs with hs | hs <;> rw [exec_illegal hc, illegalStep, hs]

end

/-! ### What each state does, by the conditions it tests -/

section
variable {c : Command} {s : State}

theorem xchgStep_hold (ha : s.inp.xAck = false) : xchgStep c s = s := by simp [xchgStep, ha]

theorem xchgStep_fault (ha : s.inp.xAck = true) (he : s.inp.xErr = true) : xchgStep c s = transportFault c s := by
  simp [xchgStep, ha, he]

theorem xchgStep_deliver (ha : s.inp.xAck = true) (he : s.inp.xErr = false) (hu : rxUse c s.k = .deliver) :
    xchgStep c s = { exchanged c s with rbuf := s.rx, st := .deliver } := by
  simp [xchgStep, ha, he, hu]

theorem xchgStep_poll (ha : s.inp.xAck = true) (he : s.inp.xErr = false) (hu : rxUse c s.k = .poll) :
    xchgStep c s = advance c { exchanged c s with sr := s.rx } := by
  simp [xchgStep, ha, he, hu]

theorem xchgStep_discard (ha : s.inp.xAck = true) (he : s.inp.xErr = false) (hu : rxUse c s.k = .discard) :
    xchgStep c s = advance c (exchanged c s) := by
  simp [xchgStep, ha, he, hu]

theorem deassertStep_fault {wait : Bool} (hf : s.fault = true) :
    deassertStep wait s = { frameEnded s with code := codeTransportFault, st := .resp } := by
  simp [deassertStep, frameEnded, hf]

theorem deassertStep_busy (hf : s.fault = false) (hb : statusRdy s.sr = true) :
    deassertStep true s = { frameEnded s with st := .pause } := by
  simp [deassertStep, pollDecision, frameEnded, hf, hb]

theorem deassertStep_ready (hf : s.fault = false) (hb : statusRdy s.sr = false) :
    deassertStep true s = { frameEnded s with code := codeOk, st := .resp } := by
  simp [deassertStep, pollDecision, frameEnded, hf, hb]

theorem deassertStep_ok (hf : s.fault = false) :
    deassertStep false s = { frameEnded s with code := codeOk, st := .resp } := by
  simp [deassertStep, frameEnded, hf]

/-- R45, read at the output port. -/
theorem csActive_of_csInv (h : CsInv s) : (outputs s).csActive = inFrame s.st := h

end

/-! ### The statements about single steps -/

/-- Settles O10: the device's own step leaves the state and the command, presented or latched, as they are. -/
theorem stepRunsDueCommand : Obligations.StepRunsDueCommand := fun s hr =>
  ⟨fun hs hv => step_due hr (fetchInstr_idle (s := deviceStep s) hs hv),
    fun hs => step_due hr (fetchInstr_latched (s := deviceStep s) hs)⟩

/-- The legal op codes are 0x1 to 0x9 (R92). -/
theorem ofOp_isSome_iff : ∀ o : OpCode, (Command.ofOp o).isSome ↔ 0x1#4 ≤ o ∧ o ≤ 0x9#4 := by decide

/-- In IDLE with no command presented a step changes no register and emits nothing (R121). -/
theorem step_unpresented {s : State} (hs : s.st = .idle) (hr : s.inp.rst = false) (hv : s.inp.cmdValid = false) :
    step s = .next (nextInputs (deviceStep s)) := by
  simp [step, fetchInstr, hs, hr, hv]

/-- Settles O13: the two kinds of op code by `Command.ofOp`, and the held step. -/
theorem acceptanceLatchesCommand : Obligations.AcceptanceLatchesCommand := by
  intro s hs
  refine ⟨by simp [outputs, hs], fun i => ?_, fun hr hv => ⟨_, step_unpresented hs hr hv, rfl⟩⟩
  cases hc : Command.ofOp i.op with
  | some c =>
    have hrange := (ofOp_isSome_iff i.op).1 (by simp [hc])
    rw [if_pos hrange, if_pos hrange]
    exact exec_idle_legal hs hc
  | none =>
    have hrange := mt (ofOp_isSome_iff i.op).2 (by simp [hc])
    rw [if_neg hrange, if_neg hrange]
    exact exec_idle_illegal hs hc

/-- Settles O14: only a position from 3 on needs a write-data byte. -/
theorem assertStartsFrame : Obligations.AssertStartsFrame := fun _ _ hs =>
  ⟨exec_assert hs, rfl, rfl, fun c => by cases c <;> rfl⟩

/-- Settles O15, one clause per branch of XCHG. -/
theorem exchangeDisposesOfByte : Obligations.ExchangeDisposesOfByte := by
  intro i c s hc hop hs tx u
  have hexec := exec_xchg hs hc
  refine ⟨by simp [outputs, hs], by simp [outputs, hop, hc, State.tx, tx], fun ha => ?_, fun ha he =>
    ⟨fun hu => ?_, fun hu => ?_, fun hu => ?_⟩⟩
  · rw [hexec, xchgStep_hold ha]
  · rw [hexec, xchgStep_deliver ha he hu]
    rfl
  · rw [hexec, xchgStep_poll ha he hu]
    rfl
  · rw [hexec, xchgStep_discard ha he hu]
    rfl

/-- A failed exchange (R127). -/
theorem exec_xchg_fault {i : Instr} {c : Command} {s : State} (hs : s.st = .xchg) (hc : Command.ofOp i.op = some c)
    (ha : s.inp.xAck = true) (he : s.inp.xErr = true) : exec i s = .next (transportFault c s) := by
  rw [exec_xchg hs hc, xchgStep_fault ha he]

/-- Settles O16: the error branch of XCHG. -/
theorem transportFaultStopsFrame : Obligations.TransportFaultStopsFrame := fun _ _ _ hc hs ha he =>
  exec_xchg_fault hs hc ha he

/-- Settles O17: FETCH is one step for every command. -/
theorem fetchTakesWriteData : Obligations.FetchTakesWriteData := fun i s hs =>
  ⟨by simp [outputs, hs], fun hcs => by rw [csActive_of_csInv hcs, hs]; rfl, exec_fetch hs⟩

/-- Settles O18: DELIVER is one step for every legal command. -/
theorem deliverGivesByte : Obligations.DeliverGivesByte := fun i c s hc hs =>
  ⟨by simp [outputs, hs], rfl, fun hcs => by rw [csActive_of_csInv hcs, hs]; rfl, exec_deliver hs hc⟩

/-- Settles O22: RESP is one step for every command. -/
theorem responseReturnsToIdle : Obligations.ResponseReturnsToIdle := fun i s hs =>
  ⟨by simp [outputs, hs], rfl, fun hcs => by rw [csActive_of_csInv hcs, hs]; rfl, exec_resp hs⟩

/-- Settles O19: the next position does not wrap, so its value decides as the position itself does. -/
theorem advanceVisitsNextPosition : Obligations.AdvanceVisitsNextPosition := by
  intro c s hk
  refine ⟨_, rfl, rfl, pos_succ_toNat hk, fun hend => ?_, fun hend => ?_⟩
  · have heq : s.k + 1 = frameLen c s.len := BitVec.eq_of_toNat_eq hend
    rw [advance_st, if_pos heq]
  · have hne : s.k + 1 ≠ frameLen c s.len := fun h => hend (congrArg BitVec.toNat h)
    rw [advance_st, if_neg hne]
    exact ⟨fun hn => if_pos (needsFetch_iff.2 hn), fun hn => if_neg fun h => hn (needsFetch_iff.1 h)⟩

/-- Settles O20: op code 0x9 alone makes the poll decision. -/
theorem deassertEndsFrame : Obligations.DeassertEndsFrame := by
  intro i s hs u
  have hexec := exec_deassert (i := i) hs
  refine ⟨fun hf => ?_, fun hf hop hb => ?_, fun hf hop hb => ?_, fun hf hop => ?_⟩
  · rw [hexec, deassertStep_fault hf]
    rfl
  · rw [hexec, hop, beq_self_eq_true, deassertStep_busy hf hb]
    rfl
  · rw [hexec, hop, beq_self_eq_true, deassertStep_ready hf hb]
    rfl
  · rw [hexec, beq_false_of_ne hop, deassertStep_ok hf]
    rfl

end Sys2Proof.Machine
end

section
/-! SUPPORT. A failed exchange up to its response (60_exceptions.md R212), and the two ways in which nothing happens:
a command presented while one runs (40_transaction.md R132) and an exchange that never completes (R135). -/

namespace Sys2Proof.Machine

/-! ### A failed exchange up to its response (R127, R212) -/

section
variable {i : Instr} {c : Command} {s : State}

theorem exec_deassert_fault (hs : s.st = .deassert) (hf : s.fault = true) :
    exec i s = .next { frameEnded s with code := codeTransportFault, st := .resp } := by
  rw [exec_deassert hs, deassertStep_fault hf]

theorem exec_resp_ready (hs : s.st = .resp) (hr : s.inp.rspReady = true) :
    exec i s = .next { s.emit (.rsp s.code) with st := .idle } := by
  rw [exec_resp hs, respStep, if_pos hr]

/-- A run of a command goes on from where its first step ends. -/
theorem execRun_cons {x : Inputs} {t : State} (h : exec i { s with inp := x } = .next t) (xs : List Inputs) :
    execRun i (x :: xs) s = execRun i xs t := by
  rw [execRun, h]

end

/-- Settles O36: the fault, the end of the frame and the response, one step each. -/
theorem faultReachesHost : Obligations.FaultReachesHost := by
  intro i c x₀ x₁ x₂ s hc hs
  have hfault := exec_xchg_fault (s := { s with inp := x₀.nack }) hs hc rfl rfl
  rw [execRun_cons hfault, execRun_cons (exec_deassert_fault rfl rfl), execRun_cons (exec_resp_ready rfl rfl)]
  refine ⟨_, rfl, rfl, rfl, ?_⟩
  show s.trace ++ [_] ++ [_] ++ [_] = _
  simp only [List.append_assoc]
  rfl

/-! ### The command ports outside IDLE (R132) -/

/-- The state with other values on the command ports. -/
def State.withCommandPorts (b : Bool) (o : OpCode) (a : Addr) (n : Len) (d : Byte) (s : State) : State :=
  { s with inp := { s.inp with cmdValid := b, cmdOp := o, cmdAddr := a, cmdLen := n, cmdData := d } }

section
variable (b : Bool) (o : OpCode) (a : Addr) (n : Len) (d : Byte)

theorem xchgStep_withCommandPorts (c : Command) (s : State) :
    nextInputs (xchgStep c (s.withCommandPorts b o a n d)) = nextInputs (xchgStep c s) := by
  rcases xchgStep_cases c s with ⟨ha, h⟩ | ⟨ha, he, h⟩ | ⟨ha, he, hu, h⟩ | ⟨ha, he, hu, h⟩ | ⟨ha, he, hu, h⟩ <;> rw [h]
  · exact (congrArg nextInputs (xchgStep_hold (s := s.withCommandPorts b o a n d) ha)).trans rfl
  · exact (congrArg nextInputs (xchgStep_fault (s := s.withCommandPorts b o a n d) ha he)).trans rfl
  · exact (congrArg nextInputs (xchgStep_deliver (s := s.withCommandPorts b o a n d) ha he hu)).trans rfl
  · exact (congrArg nextInputs (xchgStep_poll (s := s.withCommandPorts b o a n d) ha he hu)).trans rfl
  · exact (congrArg nextInputs (xchgStep_discard (s := s.withCommandPorts b o a n d) ha he hu)).trans rfl

/-- Outside IDLE no meaning reads the command ports, and the ports move on after it. -/
theorem exec_withCommandPorts (i : Instr) {s : State} (hs : s.st ≠ .idle) :
    thenNextInputs (exec i (s.withCommandPorts b o a n d)) = thenNextInputs (exec i s) := by
  have hsame : (s.withCommandPorts b o a n d).st = s.st := rfl
  cases hst : s.st with
  | idle => exact absurd hst hs
  | assert =>
    rw [exec_assert hst, exec_assert (hsame.trans hst)]
    rfl
  | fetch =>
    rw [exec_fetch hst, exec_fetch (hsame.trans hst)]
    simp only [thenNextInputs, fetchStep, apply_ite nextInputs]
    rfl
  | xchg =>
    cases hc : Command.ofOp i.op with
    | some c =>
      rw [exec_xchg hst hc, exec_xchg (hsame.trans hst) hc]
      exact congrArg Host.Outcome.next (xchgStep_withCommandPorts b o a n d c s)
    | none => rw [exec_illegal_inFrame (.inl hst) hc, exec_illegal_inFrame (.inl (hsame.trans hst)) hc]
  | deliver =>
    cases hc : Command.ofOp i.op with
    | some c =>
      rw [exec_deliver hst hc, exec_deliver (hsame.trans hst) hc]
      simp only [thenNextInputs, deliverStep, apply_ite nextInputs]
      rfl
    | none => rw [exec_illegal_inFrame (.inr hst) hc, exec_illegal_inFrame (.inr (hsame.trans hst)) hc]
  | deassert =>
    rw [exec_deassert hst, exec_deassert (hsame.trans hst)]
    simp only [thenNextInputs, deassertStep, pollDecision, apply_ite nextInputs]
    rfl
  | pause =>
    rw [exec_pause hst, exec_pause (hsame.trans hst)]
    simp only [thenNextInputs, pauseStep, apply_ite nextInputs]
    rfl
  | resp =>
    rw [exec_resp hst, exec_resp (hsame.trans hst)]
    simp only [thenNextInputs, respStep, apply_ite nextInputs]
    rfl

end

theorem step_reset {s : State} (hr : s.inp.rst = true) : step s = .next (nextInputs (resetStep (deviceStep s))) := by
  rw [step, if_pos hr]

/-- Settles O44: a reset step reads no command port, and the latched command is due elsewhere. -/
theorem commandPortsIgnoredWhileBusy : Obligations.CommandPortsIgnoredWhileBusy := by
  intro s b o a n d hs
  refine ⟨by simp [outputs, hs], ?_⟩
  show step (s.withCommandPorts b o a n d) = step s
  cases hr : s.inp.rst with
  | true =>
    rw [step_reset hr, step_reset (s := s.withCommandPorts b o a n d) hr]
    rfl
  | false =>
    have hdue := fetchInstr_latched (s := deviceStep s) hs
    rw [step_due hr hdue, step_due (s := s.withCommandPorts b o a n d) hr (fetchInstr_latched hs)]
    exact exec_withCommandPorts b o a n d _ (s := deviceStep s) hs

/-! ### An exchange that never completes (R135, R215) -/

/-- A property of all named port values, of all that follow them, and of quiet ports is one of the next step's. -/
theorem nextInputs_forall {p : Inputs → Prop} {s : State} (hquiet : p Inputs.quiet) (hs : ∀ x ∈ s.script, p x)
    (hl : ∀ m, ∀ x ∈ s.later.refill m, p x) : ∀ x ∈ (nextInputs s).inp :: (nextInputs s).script, p x := by
  have hup : ∀ x ∈ s.upcoming, p x := by
    by_cases h : s.script = []
    · rw [upcoming_later h]
      exact hl _
    · rw [upcoming_script h]
      exact hs
  rw [nextInputs_inp, nextInputs_script]
  cases hxs : s.upcoming with
  | nil => simpa using hquiet
  | cons x xs => rwa [hxs] at hup

/-- Without a reset and without `x_ack` a step in XCHG is a hold (R123). -/
theorem step_unacknowledged {c : Command} {s : State} (hs : s.st = .xchg) (hc : Command.ofOp s.op = some c)
    (hr : s.inp.rst = false) (ha : s.inp.xAck = false) : step s = .next (nextInputs (deviceStep s)) := by
  have hdue : fetchInstr (deviceStep s) = some (decodePorts s.op s.addr s.len s.cdata) :=
    fetchInstr_latched (by simp [hs])
  rw [step_due hr hdue, exec_xchg (s := deviceStep s) hs (by rwa [decodePorts_op]),
    xchgStep_hold (s := deviceStep s) ha, thenNextInputs]

/-- Settles O45, by induction on the number of steps: a held step ends in a state that is held again. -/
theorem heldExchangeHoldsForever : Obligations.HeldExchangeHoldsForever := by
  intro n
  induction n with
  | zero => exact fun s hs _ _ _ => ⟨s, rfl, hs, rfl, rfl, rfl⟩
  | succ n ih =>
    intro s hs hlegal hports hlater
    obtain ⟨c, hc⟩ := hlegal
    obtain ⟨hr, ha⟩ := hports s.inp List.mem_cons_self
    have hports' := nextInputs_forall (s := deviceStep s) ⟨rfl, rfl⟩
      (fun x hx => hports x (List.mem_cons_of_mem _ hx)) hlater
    obtain ⟨t, hrun, ht⟩ := ih (nextInputs (deviceStep s)) hs ⟨c, hc⟩ hports' hlater
    exact ⟨t, (run_succ_eq_next (M := core)).2 ⟨_, step_unacknowledged hs hc hr ha, hrun⟩, ht⟩

end Sys2Proof.Machine
end

section
/-! SUPPORT. The parts that whole commands share, from IDLE to IDLE: acceptance with the start of the frame, an
exchange whose received byte is discarded, and the end of the frame with the response OK (40_transaction.md R121 to
R129); and the two commands of 41_write_enable.md, whose frame is one byte. -/

namespace Sys2Proof.Machine

/-! ### Acceptance and the start of the frame (R121, R122) -/

/-- The state in which a legal command `i`, accepted in `s`, has begun its frame; `x` is on the ports in ASSERT. -/
def frameBegun (i : Instr) (x : Inputs) (s : State) : State :=
  assertStep { acceptLegal i.op i.addr i.len i.data s with inp := x }

section
variable (i : Instr) (x : Inputs) (s : State)

@[simp] theorem frameBegun_st : (frameBegun i x s).st = .xchg := rfl
@[simp] theorem frameBegun_addr : (frameBegun i x s).addr = i.addr := rfl
@[simp] theorem frameBegun_len : (frameBegun i x s).len = i.len := rfl
@[simp] theorem frameBegun_cdata : (frameBegun i x s).cdata = i.data := rfl
@[simp] theorem frameBegun_k : (frameBegun i x s).k = 0 := rfl
@[simp] theorem frameBegun_wbuf : (frameBegun i x s).wbuf = s.wbuf := rfl
@[simp] theorem frameBegun_fault : (frameBegun i x s).fault = false := rfl
@[simp] theorem frameBegun_trace :
    (frameBegun i x s).trace = s.trace ++ [.cmd i.op i.addr i.len i.data, .csOn] :=
  List.append_assoc s.trace [_] [_]

end

section
variable {i : Instr} {c : Command} {s : State}

theorem execRun_frameBegun (hc : Command.ofOp i.op = some c) (hs : s.st = .idle) (x₀ x₁ : Inputs) (xs : List Inputs) :
    execRun i (x₀ :: x₁ :: xs) s = execRun i xs (frameBegun i x₁ s) := by
  rw [execRun_cons (exec_idle_legal (s := { s with inp := x₀ }) hs hc), execRun_cons (exec_assert rfl)]
  rfl

/-! ### One exchange (R123, R125) -/

/-- The state after the exchange of the byte that is due, with `b` received and discarded; `x` is on the other
ports. -/
def byteSent (c : Command) (x : Inputs) (b : Byte) (s : State) : State :=
  advance c (exchanged c { s with inp := x.ack b })

section
variable (c : Command) (x : Inputs) (b : Byte) (s : State)

@[simp] theorem byteSent_st : (byteSent c x b s).st =
    if s.k + 1 = frameLen c s.len then .deassert else if needsFetch c (s.k + 1) then .fetch else .xchg := rfl
@[simp] theorem byteSent_addr : (byteSent c x b s).addr = s.addr := rfl
@[simp] theorem byteSent_len : (byteSent c x b s).len = s.len := rfl
@[simp] theorem byteSent_cdata : (byteSent c x b s).cdata = s.cdata := rfl
@[simp] theorem byteSent_k : (byteSent c x b s).k = s.k + 1 := rfl
@[simp] theorem byteSent_wbuf : (byteSent c x b s).wbuf = s.wbuf := rfl
@[simp] theorem byteSent_fault : (byteSent c x b s).fault = s.fault := rfl
@[simp] theorem byteSent_trace : (byteSent c x b s).trace = s.trace ++ [.xc (s.tx c) b] := rfl

end

theorem exec_xchg_discard (hc : Command.ofOp i.op = some c) (hs : s.st = .xchg) (ha : s.inp.xAck = true)
    (he : s.inp.xErr = false) (hu : rxUse c s.k = .discard) : exec i s = .next (advance c (exchanged c s)) := by
  rw [exec_xchg hs hc, xchgStep_discard ha he hu]

theorem execRun_byteSent (hc : Command.ofOp i.op = some c) (hs : s.st = .xchg) (hu : rxUse c s.k = .discard)
    (x : Inputs) (b : Byte) (xs : List Inputs) :
    execRun i (x.ack b :: xs) s = execRun i xs (byteSent c x b s) :=
  execRun_cons (exec_xchg_discard (s := { s with inp := x.ack b }) hc hs rfl rfl hu) xs

/-! ### The end of the frame and the response (R128, R129) -/

/-- Only WAIT_WRITE_COMPLETE makes a poll decision (R128, R192). -/
theorem exec_deassert_ok (hc : Command.ofOp i.op = some c) (hw : c ≠ .waitWriteComplete) (hs : s.st = .deassert)
    (hf : s.fault = false) : exec i s = .next { frameEnded s with code := codeOk, st := .resp } := by
  rw [(exec_legal hc s).2, commandStep, hs, beq_false_of_ne hw, deassertStep_ok hf]

/-- A command without a poll decision ends its frame with OK, which the host takes. -/
theorem execRun_ok (hc : Command.ofOp i.op = some c) (hw : c ≠ .waitWriteComplete) (hs : s.st = .deassert)
    (hf : s.fault = false) (x y : Inputs) :
    ∃ t, execRun i [x, y.takeRsp] s = .next t ∧ t.st = .idle ∧ t.cs = false ∧
      t.trace = s.trace ++ [.csOff, .rsp 0] := by
  rw [execRun_cons (exec_deassert_ok (s := { s with inp := x }) hc hw hs hf), execRun_cons (exec_resp_ready rfl rfl)]
  exact ⟨_, rfl, rfl, rfl, List.append_assoc s.trace [_] [_]⟩

/-! ### The commands of one byte (41_write_enable.md R140, R141) -/

/-- A command whose frame is one byte, with nothing to deliver or to poll, runs to OK. -/
theorem execRun_oneByte (hc : Command.ofOp i.op = some c) (hw : c ≠ .waitWriteComplete)
    (hlen : frameLen c i.len = 1) (hu : rxUse c 0 = .discard) (hs : s.st = .idle) (r : Byte) (x₀ x₁ x₂ x₃ x₄ : Inputs) :
    ∃ t, execRun i [x₀, x₁, x₂.ack r, x₃, x₄.takeRsp] s = .next t ∧ t.st = .idle ∧ t.cs = false ∧
      t.trace = s.trace ++ [.cmd i.op i.addr i.len i.data, .csOn, .xc (txByte c 0 i.addr i.data s.wbuf) r, .csOff,
        .rsp 0] := by
  have hlast : (byteSent c x₂ r (frameBegun i x₁ s)).st = .deassert := by simp [hlen]
  obtain ⟨t, hrun, hst, hcs, htrace⟩ := execRun_ok hc hw hlast rfl x₃ x₄
  rw [execRun_frameBegun hc hs, execRun_byteSent hc rfl hu]
  refine ⟨t, hrun, hst, hcs, htrace.trans ?_⟩
  simp [State.tx]

end

/-- Settles O25: both frames are one byte, the wire opcode, at position 0. -/
theorem writeEnableCommandsRun : Obligations.WriteEnableCommandsRun :=
  fun _ _ _ r x₀ x₁ x₂ x₃ x₄ _ hs =>
    ⟨execRun_oneByte (c := .enableWrite) rfl (by decide) rfl rfl hs r x₀ x₁ x₂ x₃ x₄,
      execRun_oneByte (c := .disableWrite) rfl (by decide) rfl rfl hs r x₀ x₁ x₂ x₃ x₄⟩

end Sys2Proof.Machine
end

section
/-! SUPPORT. The status byte's decode (42_status.md R152 to R157), the exchange of a byte that goes to the host
(40_transaction.md R123, R126), and the two commands of 42_status.md, whose frames are two bytes. -/

namespace Sys2Proof.Machine

/-! ### The decode of a status byte (R155 to R157) -/

/-- The decode reads no bit outside 7 and 3:0: bits 6:4 are reserved (R155). -/
theorem statusDecode_and_mask (s : Byte) : statusDecode (s &&& 0x8F#8) = statusDecode s := by
  have hbp : statusBp (s &&& 0x8F#8) = statusBp s := (BitVec.extractLsb'_and ..).trans BitVec.and_allOnes
  simp [statusDecode, hbp, statusRdy, statusWen, statusWpen]

theorem statusDecode_statusValue : ∀ (bp : BitVec 2) (wpen : Bool),
    statusDecode (statusValue bp wpen) = { rdy := false, wen := false, bp := bp, wpen := wpen } := by decide

theorem statusSafe_statusValue : ∀ (bp : BitVec 2) (wpen : Bool), statusSafe (statusValue bp wpen) := by decide

/-- Settles O57: the record is the definition, and the example is evaluated. -/
theorem statusDecodeExample : Obligations.StatusDecodeExample := ⟨fun _ => rfl, by decide, by decide⟩

/-- Settles O58: two bytes that agree under the mask have the decode of the masked byte. -/
theorem statusValueDecodes : Obligations.StatusValueDecodes :=
  ⟨fun s r h => by rw [← statusDecode_and_mask s, h, statusDecode_and_mask r],
    fun bp wpen => ⟨statusDecode_statusValue bp wpen, statusSafe_statusValue bp wpen⟩⟩

/-! ### An exchange whose received byte goes to the host (R123, R126) -/

/-- The state after the exchange of the byte that is due, with `b` received, and the beat that hands `b` to the host;
`x` and `y` are on the other ports in the two steps. -/
def byteDelivered (c : Command) (x y : Inputs) (b : Byte) (s : State) : State :=
  advance c (State.emit (.rd b)
    { exchanged c { s with inp := x.ack b } with rbuf := b, st := .deliver, inp := y.takeRd })

section
variable (c : Command) (x y : Inputs) (b : Byte) (s : State)

@[simp] theorem byteDelivered_st : (byteDelivered c x y b s).st =
    if s.k + 1 = frameLen c s.len then .deassert else if needsFetch c (s.k + 1) then .fetch else .xchg := rfl
@[simp] theorem byteDelivered_addr : (byteDelivered c x y b s).addr = s.addr := rfl
@[simp] theorem byteDelivered_len : (byteDelivered c x y b s).len = s.len := rfl
@[simp] theorem byteDelivered_k : (byteDelivered c x y b s).k = s.k + 1 := rfl
@[simp] theorem byteDelivered_fault : (byteDelivered c x y b s).fault = s.fault := rfl
@[simp] theorem byteDelivered_trace : (byteDelivered c x y b s).trace = s.trace ++ [.xc (s.tx c) b, .rd b] :=
  List.append_assoc s.trace [_] [_]

end

section
variable {i : Instr} {c : Command} {s : State}

theorem exec_xchg_deliver (hc : Command.ofOp i.op = some c) (hs : s.st = .xchg) (ha : s.inp.xAck = true)
    (he : s.inp.xErr = false) (hu : rxUse c s.k = .deliver) :
    exec i s = .next { exchanged c s with rbuf := s.rx, st := .deliver } := by
  rw [exec_xchg hs hc, xchgStep_deliver ha he hu]

theorem exec_deliver_ready (hc : Command.ofOp i.op = some c) (hs : s.st = .deliver) (hr : s.inp.rdReady = true) :
    exec i s = .next (advance c (s.emit (.rd s.rbuf))) := by
  rw [exec_deliver hs hc, deliverStep, if_pos hr]

theorem execRun_byteDelivered (hc : Command.ofOp i.op = some c) (hs : s.st = .xchg) (hu : rxUse c s.k = .deliver)
    (x y : Inputs) (b : Byte) (xs : List Inputs) :
    execRun i (x.ack b :: y.takeRd :: xs) s = execRun i xs (byteDelivered c x y b s) := by
  rw [execRun_cons (exec_xchg_deliver (s := { s with inp := x.ack b }) hc hs rfl rfl hu),
    execRun_cons (exec_deliver_ready hc rfl rfl)]
  rfl

/-! ### The end of a command (R128, R129) -/

/-- `execRun_ok`, with the trace of the whole command written out. -/
theorem execRun_ok_trace {l : List Event} (hc : Command.ofOp i.op = some c) (hw : c ≠ .waitWriteComplete)
    (hs : s.st = .deassert) (hf : s.fault = false) (htrace : s.trace ++ [.csOff, .rsp 0] = l) (x y : Inputs) :
    ∃ t, execRun i [x, y.takeRsp] s = .next t ∧ t.st = .idle ∧ t.cs = false ∧ t.trace = l :=
  htrace ▸ execRun_ok hc hw hs hf x y

end

/-! ### The commands of 42_status.md (R150, R151) -/

/-- Settles O26: the opcode's answer is discarded, the byte after it is delivered. -/
theorem readStatusDeliversStatus : Obligations.ReadStatusDeliversStatus := by
  intro a n d r v x₀ x₁ x₂ x₃ x₄ x₅ x₆ s hs
  have hc : Command.ofOp (Instr.readStatus a n d).op = some .readStatus := rfl
  rw [execRun_frameBegun hc hs, execRun_byteSent hc rfl rfl, execRun_byteDelivered hc rfl rfl]
  refine execRun_ok_trace hc (by decide) rfl rfl ?_ x₅ x₆
  simp [State.tx, txByte, wireReadStatus, Instr.op, Instr.addr, Instr.len, Instr.data]

/-- Settles O27: neither answer is used, and the second byte sent is the latched data byte. -/
theorem writeStatusSendsValue : Obligations.WriteStatusSendsValue := by
  intro a n v r q x₀ x₁ x₂ x₃ x₄ x₅ s hs
  have hc : Command.ofOp (Instr.writeStatus a n v).op = some .writeStatus := rfl
  rw [execRun_frameBegun hc hs, execRun_byteSent hc rfl rfl, execRun_byteSent hc rfl rfl]
  refine execRun_ok_trace hc (by decide) rfl rfl ?_ x₄ x₅
  simp [State.tx, txByte, wireWriteStatus, Instr.op, Instr.addr, Instr.len, Instr.data]

end Sys2Proof.Machine
end

section
/-! SUPPORT. The byte and range transfers (43_data_transfer.md): the three bytes that open the frame of a data command,
one data byte of a read or of a write, and the four commands, each a frame of so many data bytes. -/

namespace Sys2Proof.Machine

/-! ### Runs of a command that go on -/

/-- The command `i` goes from `s` to `t` while the ports play `xs`, and emits `l`. -/
structure Runs (i : Instr) (xs : List Inputs) (l : List Event) (s t : State) : Prop where
  run : execRun i xs s = .next t
  trace : t.trace = s.trace ++ l

section
variable {i : Instr} {xs ys : List Inputs} {l l' : List Event} {s t u : State}

theorem execRun_append (h : execRun i xs s = .next u) (ys : List Inputs) :
    execRun i (xs ++ ys) s = execRun i ys u := by
  induction xs generalizing s with
  | nil => cases h; rfl
  | cons x xs ih =>
    cases hx : exec i { s with inp := x } with
    | next v =>
      rw [execRun_cons hx] at h
      rw [List.cons_append, execRun_cons hx, ih h]
    | fault r => simp [execRun, hx] at h
    | refused r => simp [execRun, hx] at h

theorem Runs.append (h : Runs i xs l s u) (h' : Runs i ys l' u t) : Runs i (xs ++ ys) (l ++ l') s t :=
  ⟨by rw [execRun_append h.run, h'.run], by rw [h'.trace, h.trace, List.append_assoc]⟩

/-- What holds with so many beats to come, and steps down with each beat, is 0 after all of them. -/
theorem runs_beats {α : Type} {due : Nat → State → Prop} {ports : α → List Inputs} {events : α → List Event}
    (hbeat : ∀ b n s, due (n + 1) s → ∃ t, Runs i (ports b) (events b) s t ∧ due n t) (beats : List α)
    (h : due beats.length s) : ∃ t, Runs i (beats.flatMap ports) (beats.flatMap events) s t ∧ due 0 t := by
  induction beats generalizing s with
  | nil => exact ⟨s, ⟨rfl, (List.append_nil _).symm⟩, h⟩
  | cons b beats ih =>
    obtain ⟨u, hu, hdue⟩ := hbeat b beats.length s h
    obtain ⟨t, ht, hend⟩ := ih hdue
    exact ⟨t, List.flatMap_cons ▸ List.flatMap_cons ▸ hu.append ht, hend⟩

end

/-! ### The data bytes of a frame (R104 to R107) -/

/-- The frame of `i` stands past the address bytes with `n` data bytes to come: the next one is due, or the end of the
frame where none is left. -/
structure DataDue (i : Instr) (c : Command) (n : Nat) (s : State) : Prop where
  st : s.st = if n = 0 then .deassert else if c = .writeRange then .fetch else .xchg
  len : s.len = i.len
  cdata : s.cdata = i.data
  fault : s.fault = false
  past : 3 ≤ s.k
  left : s.k.toNat + n = (frameLen c i.len).toNat

section
variable {i : Instr} {c : Command} {n : Nat} {s : State}

/-- The step to the next position, from the last address byte or from a data byte. -/
theorem dataDue_advance (hlen : s.len = i.len) (hcdata : s.cdata = i.data) (hf : s.fault = false) (hk : 2 ≤ s.k)
    (hleft : s.k.toNat + (n + 1) = (frameLen c i.len).toNat) : DataDue i c n (advance c s) := by
  have hsucc : (s.k + 1).toNat = s.k.toNat + 1 := pos_succ_toNat (n := frameLen c i.len) (by bv_omega)
  have hpast : 3 ≤ s.k + 1 := by bv_omega
  have hend : s.k + 1 = frameLen c i.len ↔ n = 0 := by
    rw [← BitVec.toNat_inj]
    omega
  refine ⟨?_, hlen, hcdata, hf, hpast, by rw [advance_k]; omega⟩
  simp only [advance_st, hlen, hend, needsFetch_iff, hpast, and_true]

theorem dataDue_byteSent (hlen : s.len = i.len) (hcdata : s.cdata = i.data) (hf : s.fault = false) (hk : 2 ≤ s.k)
    (hleft : s.k.toNat + (n + 1) = (frameLen c i.len).toNat) (x : Inputs) (b : Byte) :
    DataDue i c n (byteSent c x b s) :=
  dataDue_advance hlen hcdata hf hk hleft

/-- A data byte is done in `u`, which has the registers of the frame as they were when it was due. -/
theorem DataDue.advance {u : State} (h : DataDue i c (n + 1) s) (hk : u.k = s.k) (hlen : u.len = s.len)
    (hcdata : u.cdata = s.cdata) (hf : u.fault = s.fault) : DataDue i c n (advance c u) := by
  have hpast := h.past
  exact dataDue_advance (hlen.trans h.len) (hcdata.trans h.cdata) (hf.trans h.fault) (by bv_omega) (hk ▸ h.left)

/-- With no data byte left, the command ends its frame with OK. -/
theorem runs_ok (hc : Command.ofOp i.op = some c) (hw : c ≠ .waitWriteComplete) (h : DataDue i c 0 s) (y z : Inputs) :
    ∃ t, Runs i [y, z.takeRsp] [.csOff, .rsp 0] s t ∧ t.st = .idle ∧ t.cs = false := by
  obtain ⟨t, hrun, hst, hcs, htrace⟩ := execRun_ok hc hw h.st h.fault y z
  exact ⟨t, ⟨hrun, htrace⟩, hst, hcs⟩

end

/-! ### The opcode and the address (R103, R105, R106)

The data commands are those whose frame is longer than 2 bytes. -/

section
variable {i : Instr} {c : Command} {n : Nat} {s : State}

theorem dataCommand_cases {len : Len} (h : 3 ≤ frameLen c len) :
    c = .readByte ∨ c = .writeByte ∨ c = .readRange ∨ c = .writeRange := by
  cases c with
  | readByte | writeByte | readRange | writeRange => decide
  | enableWrite | disableWrite => exact absurd h (by decide : ¬ (3 : Pos) ≤ 1)
  | readStatus | writeStatus | waitWriteComplete => exact absurd h (by decide : ¬ (3 : Pos) ≤ 2)

/-- A data command discards what it receives with the opcode and the address. -/
theorem rxUse_address {len : Len} (h : 3 ≤ frameLen c len) {k : Pos} (hk : k < 3) : rxUse c k = .discard := by
  have hne : k ≠ 3 := by bv_omega
  have hlt : ¬ 3 ≤ k := by bv_omega
  obtain rfl | rfl | rfl | rfl := dataCommand_cases h
  · exact if_neg hne
  · rfl
  · exact if_neg hlt
  · rfl

theorem txByte_addrHi {len : Len} (h : 3 ≤ frameLen c len) (a : Addr) (d w : Byte) : txByte c 1 a d w = addrHi a := by
  obtain rfl | rfl | rfl | rfl := dataCommand_cases h <;> rfl

theorem txByte_addrLo {len : Len} (h : 3 ≤ frameLen c len) (a : Addr) (d w : Byte) : txByte c 2 a d w = addrLo a := by
  obtain rfl | rfl | rfl | rfl := dataCommand_cases h <;> rfl

/-- Every byte before the last address byte is followed by another exchange. -/
theorem byteSent_st_address (h : 3 ≤ frameLen c s.len) (hk : s.k + 1 < 3) (x : Inputs) (b : Byte) :
    (byteSent c x b s).st = .xchg := by
  have hend : s.k + 1 ≠ frameLen c s.len := by bv_omega
  have hfetch : ¬ needsFetch c (s.k + 1) = true := fun hn => by
    obtain ⟨-, hpast⟩ := needsFetch_iff.1 hn
    bv_omega
  rw [byteSent_st, if_neg hend, if_neg hfetch]

/-- A data command up to its last address byte. -/
theorem runs_address (hc : Command.ofOp i.op = some c) (hn : (frameLen c i.len).toNat = 3 + n) (hs : s.st = .idle)
    (r₀ r₁ r₂ : Byte) (x₀ x₁ x₂ x₃ x₄ : Inputs) :
    ∃ t, Runs i [x₀, x₁, x₂.ack r₀, x₃.ack r₁, x₄.ack r₂]
        [.cmd i.op i.addr i.len i.data, .csOn, .xc (txByte c 0 0 0 0) r₀, .xc (addrHi i.addr) r₁,
          .xc (addrLo i.addr) r₂] s t ∧
      DataDue i c n t := by
  have hd : 3 ≤ frameLen c i.len := by bv_omega
  have hu (k : Pos) (hk : k < 3) : rxUse c k = .discard := rxUse_address hd hk
  have hst₀ : (byteSent c x₂ r₀ (frameBegun i x₁ s)).st = .xchg :=
    byteSent_st_address (s := frameBegun i x₁ s) hd (by rw [frameBegun_k]; decide) x₂ r₀
  have hst₁ : (byteSent c x₃ r₁ (byteSent c x₂ r₀ (frameBegun i x₁ s))).st = .xchg :=
    byteSent_st_address (s := byteSent c x₂ r₀ (frameBegun i x₁ s)) hd (by rw [byteSent_k, frameBegun_k]; decide) x₃ r₁
  refine ⟨byteSent c x₄ r₂ (byteSent c x₃ r₁ (byteSent c x₂ r₀ (frameBegun i x₁ s))), ⟨?_, ?_⟩,
    dataDue_byteSent rfl rfl rfl ?_ ?_ x₄ r₂⟩
  · rw [execRun_frameBegun hc hs, execRun_byteSent hc rfl (hu 0 (by decide)),
      execRun_byteSent hc hst₀ (hu (0 + 1) (by decide)), execRun_byteSent hc hst₁ (hu (0 + 1 + 1) (by decide)), execRun]
  · simpa [State.tx] using And.intro (txByte_zero c i.addr i.data s.wbuf)
      (And.intro (txByte_addrHi hd i.addr i.data s.wbuf) (txByte_addrLo hd i.addr i.data s.wbuf))
  · rw [byteSent_k, byteSent_k, frameBegun_k]
    decide
  · rw [byteSent_k, byteSent_k, frameBegun_k]
    bv_omega

/-- A data command is its address, its beats and the end of its frame. -/
theorem runs_dataCommand {α : Type} {ports : α → List Inputs} {events : α → List Event} {beats : List α}
    (hc : Command.ofOp i.op = some c) (hn : (frameLen c i.len).toNat = 3 + beats.length)
    (hbeat : ∀ b n s, DataDue i c (n + 1) s → ∃ t, Runs i (ports b) (events b) s t ∧ DataDue i c n t)
    (hs : s.st = .idle) (r₀ r₁ r₂ : Byte) (x₀ x₁ x₂ x₃ x₄ y z : Inputs) :
    ∃ t, Runs i ([x₀, x₁, x₂.ack r₀, x₃.ack r₁, x₄.ack r₂] ++ beats.flatMap ports ++ [y, z.takeRsp])
        ([.cmd i.op i.addr i.len i.data, .csOn, .xc (txByte c 0 0 0 0) r₀, .xc (addrHi i.addr) r₁,
          .xc (addrLo i.addr) r₂] ++ beats.flatMap events ++ [.csOff, .rsp 0]) s t ∧
      t.st = .idle ∧ t.cs = false := by
  have hw : c ≠ .waitWriteComplete := by
    rintro rfl
    exact absurd hn (show 2 ≠ 3 + beats.length by omega)
  obtain ⟨u, hu, hdue⟩ := runs_address hc hn hs r₀ r₁ r₂ x₀ x₁ x₂ x₃ x₄
  obtain ⟨v, hv, hend⟩ := runs_beats hbeat beats hdue
  obtain ⟨t, ht, hst⟩ := runs_ok hc hw hend y z
  exact ⟨t, (hu.append hv).append ht, hst⟩

/-! ### One data byte (R105, R106) -/

/-- The reading data commands deliver every data byte: READ_BYTE has one, at position 3. -/
theorem rxUse_data (hread : c = .readByte ∨ c = .readRange) (h : DataDue i c (n + 1) s) : rxUse c s.k = .deliver := by
  have hpast := h.past
  obtain rfl | rfl := hread
  · have hleft : s.k.toNat + (n + 1) = 4 := h.left
    exact if_pos (by bv_omega)
  · exact if_pos hpast

/-- The reading data commands send a dummy byte for every data byte. -/
theorem tx_data (hread : c = .readByte ∨ c = .readRange) (hk : 3 ≤ s.k) : s.tx c = Config.dummyByte := by
  obtain rfl | rfl := hread <;> exact txByte_readByte_data hk s.addr s.cdata s.wbuf

/-- A byte read: one exchange, and the beat that delivers what was received. -/
theorem runs_readBeat (hc : Command.ofOp i.op = some c) (hread : c = .readByte ∨ c = .readRange) (x y : Inputs)
    (b : Byte) (h : DataDue i c (n + 1) s) :
    ∃ t, Runs i [x.ack b, y.takeRd] [.xc Config.dummyByte b, .rd b] s t ∧ DataDue i c n t := by
  have hst : s.st = .xchg := by obtain rfl | rfl := hread <;> exact h.st
  refine ⟨byteDelivered c x y b s, ⟨?_, ?_⟩, h.advance rfl rfl rfl rfl⟩
  · rw [execRun_byteDelivered hc hst (rxUse_data hread h), execRun]
  · rw [byteDelivered_trace, tx_data hread h.past]

/-- The byte of WRITE_BYTE: one exchange of the latched data byte. -/
theorem runs_writeByteBeat (hc : Command.ofOp i.op = some .writeByte) (x : Inputs) (r : Byte)
    (h : DataDue i .writeByte (n + 1) s) :
    ∃ t, Runs i [x.ack r] [.xc i.data r] s t ∧ DataDue i .writeByte n t := by
  have htx : s.tx .writeByte = i.data := (txByte_writeByte_data h.past s.addr s.cdata s.wbuf).trans h.cdata
  refine ⟨byteSent .writeByte x r s, ⟨?_, ?_⟩, h.advance rfl rfl rfl rfl⟩
  · rw [execRun_byteSent hc h.st rfl, execRun]
  · rw [byteSent_trace, htx]

/-- The state after FETCH took the offered byte `b`; `x` is on the other ports (R124). -/
def byteTaken (x : Inputs) (b : Byte) (s : State) : State :=
  { s.emit (.wd b) with inp := x.offerWd b, wbuf := b, st := .xchg }

@[simp] theorem byteTaken_trace (x : Inputs) (b : Byte) (s : State) :
    (byteTaken x b s).trace = s.trace ++ [.wd b] := rfl

theorem execRun_byteTaken (hs : s.st = .fetch) (x : Inputs) (b : Byte) (xs : List Inputs) :
    execRun i (x.offerWd b :: xs) s = execRun i xs (byteTaken x b s) :=
  execRun_cons (exec_fetch (s := { s with inp := x.offerWd b }) hs) xs

/-- WRITE_RANGE sends the byte it took. -/
theorem byteTaken_tx (hk : 3 ≤ s.k) (x : Inputs) (b : Byte) : (byteTaken x b s).tx .writeRange = b :=
  txByte_writeByte_data hk s.addr b s.cdata

/-- A byte of WRITE_RANGE: it is taken from the host, and then exchanged. -/
theorem runs_writeRangeBeat (hc : Command.ofOp i.op = some .writeRange) (x y : Inputs) (b r : Byte)
    (h : DataDue i .writeRange (n + 1) s) :
    ∃ t, Runs i [x.offerWd b, y.ack r] [.wd b, .xc b r] s t ∧ DataDue i .writeRange n t := by
  refine ⟨byteSent .writeRange y r (byteTaken x b s), ⟨?_, ?_⟩, h.advance rfl rfl rfl rfl⟩
  · rw [execRun_byteTaken h.st, execRun_byteSent hc rfl rfl, execRun]
  · rw [byteSent_trace, byteTaken_trace, byteTaken_tx h.past, List.append_assoc, List.singleton_append]

end

/-! ### The four commands (R170 to R173) -/

/-- The frame of a range command of `m` bytes. -/
theorem rangeLen_ofNat {m : Nat} (hm : m ≤ 65535) : (3 + (BitVec.ofNat 16 m).setWidth 17 : Pos).toNat = 3 + m := by
  rw [rangeLen_toNat, BitVec.toNat_ofNat, Nat.mod_eq_of_lt (by omega)]

/-- Settles O28: a data command of one beat. -/
theorem readByteDeliversByte : Obligations.ReadByteDeliversByte := by
  intro a n d r₀ r₁ r₂ v x₀ x₁ x₂ x₃ x₄ x₅ x₆ x₇ x₈ s hs
  obtain ⟨t, ht, hst, hcs⟩ := runs_dataCommand (i := .readByte a n d) (c := .readByte) (beats := [v]) rfl rfl
    (fun b _ _ => runs_readBeat rfl (.inl rfl) x₅ x₆ b) hs r₀ r₁ r₂ x₀ x₁ x₂ x₃ x₄ x₇ x₈
  exact ⟨t, ht.run, hst, hcs, ht.trace⟩

/-- Settles O29: a data command of one beat, the byte received with the data byte. -/
theorem writeByteSendsByte : Obligations.WriteByteSendsByte := by
  intro a n v r₀ r₁ r₂ r₃ x₀ x₁ x₂ x₃ x₄ x₅ x₆ x₇ s hs
  obtain ⟨t, ht, hst, hcs⟩ := runs_dataCommand (i := .writeByte a n v) (c := .writeByte) (beats := [r₃]) rfl rfl
    (fun r _ _ => runs_writeByteBeat rfl x₅ r) hs r₀ r₁ r₂ x₀ x₁ x₂ x₃ x₄ x₆ x₇
  exact ⟨t, ht.run, hst, hcs, ht.trace⟩

/-- Settles O30: one beat for each byte of the range. -/
theorem readRangeDeliversBytes : Obligations.ReadRangeDeliversBytes := by
  intro a d r₀ r₁ r₂ x₀ x₁ x₂ x₃ x₄ y z beats s hs hlen
  obtain ⟨t, ht, hst, hcs⟩ := runs_dataCommand (i := .readRange a (BitVec.ofNat 16 beats.length) d) (c := .readRange)
    rfl (rangeLen_ofNat hlen)
    (fun b _ _ => runs_readBeat rfl (.inr rfl) b.2.1 b.2.2 b.1) hs r₀ r₁ r₂ x₀ x₁ x₂ x₃ x₄ y z
  refine ⟨t, ht.run, hst, hcs, ?_⟩
  rw [ht.trace, ← List.append_assoc, ← List.append_assoc]
  rfl

/-- Settles O31: one beat for each byte of the range. -/
theorem writeRangeSendsBytes : Obligations.WriteRangeSendsBytes := by
  intro a d r₀ r₁ r₂ x₀ x₁ x₂ x₃ x₄ y z beats s hs hlen
  obtain ⟨t, ht, hst, hcs⟩ := runs_dataCommand (i := .writeRange a (BitVec.ofNat 16 beats.length) d) (c := .writeRange)
    rfl (rangeLen_ofNat hlen)
    (fun b _ _ => runs_writeRangeBeat rfl b.2.2.1 b.2.2.2 b.1 b.2.1) hs r₀ r₁ r₂ x₀ x₁ x₂ x₃ x₄ y z
  refine ⟨t, ht.run, hst, hcs, ?_⟩
  rw [ht.trace, ← List.append_assoc, ← List.append_assoc]
  rfl

end Sys2Proof.Machine
end

section
/-! SUPPORT. The write-completion wait (44_poll_fsm.md): the stages of a wait that still polls and the step that leads
from each to the next, said once; from it the runs of the command under given ports, and the endless run of the
machine. -/

namespace Sys2Proof.Machine

/-! ### The pause (R193) -/

/-- Settles O21: PAUSE is one step for every command. -/
theorem pauseRunsDelay : Obligations.PauseRunsDelay := fun _ s hs =>
  ⟨by simp [outputs, hs], rfl, Nat.le_add_left 1 _, by simp [outputs, hs],
    fun hcs => by rw [csActive_of_csInv hcs, hs]; rfl, exec_pause hs⟩

/-! ### One step, and the run after it -/

section
variable {i : Instr} {x : Inputs} {xs R : List Inputs} {e : Event} {l : List Event} {s u t : State}

theorem Runs.cons (h : exec i { s with inp := x } = .next u) (htrace : u.trace = s.trace ++ [e])
    (h' : Runs i xs l u t) : Runs i (x :: xs) (e :: l) s t :=
  ⟨by rw [execRun_cons h, h'.run], by rw [h'.trace, htrace, List.append_assoc, List.singleton_append]⟩

theorem Plays.cons (h : step s = .next u) (htrace : u.trace = s.trace ++ [e])
    (h' : Plays xs l u t) : Plays (x :: xs) (e :: l) s t :=
  ⟨(run_succ_eq_next (M := core)).2 ⟨u, h, h'.run⟩,
    by rw [h'.trace, htrace, List.append_assoc, List.singleton_append]⟩

/-- Where the command that is due answers, the step is its step and the next ports (R120). -/
theorem step_of_exec (hr : s.inp.rst = false) (hf : fetchInstr (deviceStep s) = some i)
    (h : exec i (deviceStep s) = .next u) : step s = .next (nextInputs u) := by
  rw [step_due hr hf, h, thenNextInputs]

/-- Repeated ports begin again where they have ended. -/
theorem nextInputs_repeats (hl : s.later = .repeats R) (hR : R ≠ []) :
    (nextInputs s).inp :: (nextInputs s).script = if s.script = [] then R else s.script := by
  have hup : s.upcoming = if s.script = [] then R else s.script := by
    split
    next h => rw [upcoming_later h, hl, refill_repeats]
    next h => exact upcoming_script h
  have hne : s.upcoming ≠ [] := by
    rw [hup]
    split <;> assumption
  rw [nextInputs_inp, nextInputs_script, ← hup]
  obtain ⟨y, ys, h⟩ := List.exists_cons_of_ne_nil hne
  rw [h]
  rfl

end

/-! ### The stages of a wait that still polls (R191) -/

/-- Where a WAIT_WRITE_COMPLETE stands while it polls: about to start a polling frame, about to exchange byte `k` of
it, about to end it after the status byte `b`, or between two of them. -/
inductive WaitStage where
  | assert
  | exchange (k : Pos)
  | ended (b : Byte)
  | pause

/-- The controller stands at a stage of a WAIT_WRITE_COMPLETE. -/
def WaitAt : WaitStage → State → Prop
  | .assert, s => AboutToPoll s
  | .exchange k, s => s.st = .xchg ∧ s.op = 0x9 ∧ s.k = k ∧ s.fault = false
  | .ended b, s => Polled b s
  | .pause, s => s.st = .pause ∧ s.op = 0x9 ∧ s.fault = false

/-- One step of a wait that still polls: the port values it asks for, its event and the stage after it (R122, R123,
R192, R193). `exec_waitStep` says that the command takes it. -/
inductive WaitStep : WaitStage → Inputs → Event → WaitStage → Prop
  | assert (x : Inputs) : WaitStep .assert x .csOn (.exchange 0)
  | opcode {x : Inputs} {b : Byte} (ha : x.xAck = true) (he : x.xErr = false) (hrx : x.xRx = .line b) :
      WaitStep (.exchange 0) x (.xc 0x05 b) (.exchange 1)
  | status {x : Inputs} {b : Byte} (ha : x.xAck = true) (he : x.xErr = false) (hrx : x.xRx = .line b) :
      WaitStep (.exchange 1) x (.xc Config.dummyByte b) (.ended b)
  | busy (x : Inputs) {b : Byte} (hb : statusRdy b = true) : WaitStep (.ended b) x .csOff .pause
  | delay {x : Inputs} (hd : x.dDone = true) : WaitStep .pause x (.dly pollDelayUs) .assert

/-- Steps of a wait that still polls, one after the other. -/
inductive WaitPath : WaitStage → List Inputs → List Event → WaitStage → Prop
  | nil (g : WaitStage) : WaitPath g [] [] g
  | cons {g g₁ g₂ : WaitStage} {x : Inputs} {xs : List Inputs} {e : Event} {l : List Event}
      (h : WaitStep g x e g₁) (hrest : WaitPath g₁ xs l g₂) : WaitPath g (x :: xs) (e :: l) g₂

/-- The events of a poll that reads busy, with the delay after it (R190). -/
def Poll.busyEvents (p : Poll) : List Event := p.events ++ [.dly pollDelayUs]

section
variable {g g₁ g₂ : WaitStage} {x : Inputs} {xs ys : List Inputs} {e : Event} {l l' : List Event} {s : State}

/-! #### The paths of the polls (R190) -/

theorem WaitPath.append (h : WaitPath g xs l g₁) (h' : WaitPath g₁ ys l' g₂) : WaitPath g (xs ++ ys) (l ++ l') g₂ := by
  induction h with
  | nil => exact h'
  | cons hstep _ ih => exact .cons hstep (ih h')

/-- A polling frame up to its end. -/
theorem waitPath_exchanges (p : Poll) :
    WaitPath .assert [p.atAssert, p.atOpcode.ack p.rx, p.atStatus.ack p.status]
      [.csOn, .xc 0x05 p.rx, .xc Config.dummyByte p.status] (.ended p.status) :=
  .cons (.assert _) (.cons (.opcode rfl rfl rfl) (.cons (.status rfl rfl rfl) (.nil _)))

/-- A poll that reads busy leads to the next one. -/
theorem waitPath_busyPoll {p : Poll} (hb : p.status.getLsbD 0 = true) :
    WaitPath .assert p.busy p.busyEvents .assert :=
  (waitPath_exchanges p).append (.cons (.busy p.atDeassert hb) (.cons (.delay rfl) (.nil _)))

theorem waitPath_busyPolls {polls : List Poll} (hb : ∀ p ∈ polls, p.status.getLsbD 0 = true) :
    WaitPath .assert (polls.flatMap Poll.busy) (polls.flatMap Poll.busyEvents) .assert := by
  induction polls with
  | nil => exact .nil _
  | cons p ps ih =>
    obtain ⟨hp, hps⟩ := List.forall_mem_cons.1 hb
    exact List.flatMap_cons ▸ List.flatMap_cons ▸ (waitPath_busyPoll hp).append (ih hps)

/-! #### A stage is one of the registers -/

@[simp] theorem waitAt_inp : WaitAt g { s with inp := x } ↔ WaitAt g s := by cases g <;> rfl

@[simp] theorem waitAt_deviceStep : WaitAt g (deviceStep s) ↔ WaitAt g s := by cases g <;> rfl

@[simp] theorem waitAt_nextInputs : WaitAt g (nextInputs s) ↔ WaitAt g s := by cases g <;> rfl

theorem WaitAt.op (h : WaitAt g s) : s.op = 0x9 := by
  cases g <;> exact h.2.1

/-- A wait that still polls accepts no command and gives no response (R194, R214). -/
theorem WaitAt.unanswered (h : WaitAt g s) : s.st ≠ .idle ∧ s.st ≠ .resp := by
  cases g <;> rw [h.1] <;> decide

theorem WaitAt.outputs (h : WaitAt g s) : (outputs s).cmdReady = false ∧ (outputs s).rspValid = false := by
  obtain ⟨hidle, hresp⟩ := h.unanswered
  exact ⟨beq_false_of_ne hidle, beq_false_of_ne hresp⟩

/-! ### The meaning of the command at each stage -/

variable {i : Instr}

theorem exec_xchg_poll {c : Command} (hc : Command.ofOp i.op = some c) (hs : s.st = .xchg) (ha : s.inp.xAck = true)
    (he : s.inp.xErr = false) (hu : rxUse c s.k = .poll) :
    exec i s = .next (advance c { exchanged c s with sr := s.rx }) := by
  rw [exec_xchg hs hc, xchgStep_poll ha he hu]

/-- The poll decision of WAIT_WRITE_COMPLETE, where the status byte has bit 0 set (R192). -/
theorem exec_deassert_busy (hi : Command.ofOp i.op = some .waitWriteComplete) (hs : s.st = .deassert)
    (hf : s.fault = false) (hb : statusRdy s.sr = true) : exec i s = .next { frameEnded s with st := .pause } := by
  rw [(exec_legal hi s).2, commandStep, hs, beq_self_eq_true, deassertStep_busy hf hb]

/-- The poll decision of WAIT_WRITE_COMPLETE, where the status byte has bit 0 clear (R192). -/
theorem exec_deassert_ready (hi : Command.ofOp i.op = some .waitWriteComplete) (hs : s.st = .deassert)
    (hf : s.fault = false) (hb : statusRdy s.sr = false) :
    exec i s = .next { frameEnded s with code := codeOk, st := .resp } := by
  rw [(exec_legal hi s).2, commandStep, hs, beq_self_eq_true, deassertStep_ready hf hb]

theorem exec_pause_done (hs : s.st = .pause) (hd : s.inp.dDone = true) :
    exec i s = .next { s.emit (.dly pollDelayUs) with k := 0, st := .assert } := by
  rw [exec_pause hs, pauseStep, if_pos hd]

/-- The first answer of a polling frame is discarded, and the second byte follows (R105, R106). -/
theorem exec_pollOpcode {b : Byte} (hi : Command.ofOp i.op = some .waitWriteComplete) (hs : WaitAt (.exchange 0) s)
    (ha : s.inp.xAck = true) (he : s.inp.xErr = false) (hrx : s.inp.xRx = .line b) :
    ∃ t, exec i s = .next t ∧ t.trace = s.trace ++ [.xc 0x05 b] ∧ WaitAt (.exchange 1) t := by
  obtain ⟨hst, hop, hk, hf⟩ := hs
  have hu : rxUse .waitWriteComplete s.k = .discard := by rw [hk]; rfl
  have htx : s.tx .waitWriteComplete = 0x05 := by rw [State.tx, hk]; rfl
  have hrx : s.rx = b := by rw [State.rx, hrx]
  refine ⟨_, exec_xchg_discard hi hst ha he hu, ?_, ?_, hop, ?_, hf⟩
  · rw [advance_trace, exchanged_trace, htx, hrx]
  · rw [advance_st, exchanged_k, hk]; rfl
  · rw [advance_k, exchanged_k, hk]; rfl

/-- The second answer of a polling frame is its status byte, and the frame ends (R104, R106). -/
theorem exec_pollStatus {b : Byte} (hi : Command.ofOp i.op = some .waitWriteComplete) (hs : WaitAt (.exchange 1) s)
    (ha : s.inp.xAck = true) (he : s.inp.xErr = false) (hrx : s.inp.xRx = .line b) :
    ∃ t, exec i s = .next t ∧ t.trace = s.trace ++ [.xc Config.dummyByte b] ∧ WaitAt (.ended b) t := by
  obtain ⟨hst, hop, hk, hf⟩ := hs
  have hu : rxUse .waitWriteComplete s.k = .poll := by rw [hk]; rfl
  have htx : s.tx .waitWriteComplete = Config.dummyByte := by rw [State.tx, hk]; rfl
  have hrx : s.rx = b := by rw [State.rx, hrx]
  refine ⟨_, exec_xchg_poll hi hst ha he hu, ?_, ?_, hop, hf, hrx⟩
  · show s.trace ++ [_] = _
    rw [htx, hrx]
  · show (if s.k + 1 = 2 then _ else _) = _
    rw [hk]; rfl

/-- The command takes the steps of a wait. -/
theorem exec_waitStep (hi : Command.ofOp i.op = some .waitWriteComplete) (h : WaitStep g s.inp e g₁)
    (hs : WaitAt g s) : ∃ t, exec i s = .next t ∧ t.trace = s.trace ++ [e] ∧ WaitAt g₁ t := by
  generalize hx : s.inp = x at h
  cases h with
  | assert =>
    obtain ⟨hst, hop, hk, hf⟩ := hs
    exact ⟨_, exec_assert hst, rfl, rfl, hop, hk, hf⟩
  | opcode ha he hrx => exact exec_pollOpcode hi hs (hx ▸ ha) (hx ▸ he) (hx ▸ hrx)
  | status ha he hrx => exact exec_pollStatus hi hs (hx ▸ ha) (hx ▸ he) (hx ▸ hrx)
  | busy _ hb =>
    obtain ⟨hst, hop, hf, rfl⟩ := hs
    exact ⟨_, exec_deassert_busy hi hst hf hb, rfl, rfl, hop, hf⟩
  | delay hd =>
    obtain ⟨hst, hop, hf⟩ := hs
    exact ⟨_, exec_pause_done hst (hx ▸ hd), rfl, rfl, hop, rfl, hf⟩

end

/-! ### The command under given ports (R190, R194, R196) -/

section
variable {i : Instr} {g g' : WaitStage} {xs : List Inputs} {l : List Event} {s : State}

theorem runs_waitPath (hi : Command.ofOp i.op = some .waitWriteComplete) (h : WaitPath g xs l g') (hs : WaitAt g s) :
    ∃ t, Runs i xs l s t ∧ WaitAt g' t := by
  induction h generalizing s with
  | nil => exact ⟨s, ⟨rfl, (List.append_nil _).symm⟩, hs⟩
  | @cons _ _ _ x _ _ _ hstep _ ih =>
    obtain ⟨u, hu, htrace, hat⟩ := exec_waitStep (s := { s with inp := x }) hi hstep (waitAt_inp.2 hs)
    obtain ⟨t, ht, hend⟩ := ih hat
    exact ⟨t, .cons hu htrace ht, hend⟩

/-- An accepted wait is about to poll, with no pause before the first poll (R121, R196). -/
theorem exec_acceptWait (hi : Command.ofOp i.op = some .waitWriteComplete) (hs : s.st = .idle) :
    ∃ t, exec i s = .next t ∧ t.trace = s.trace ++ [.cmd i.op i.addr i.len i.data] ∧ AboutToPoll t :=
  ⟨_, exec_idle_legal hs hi, rfl, rfl, (op_of_ofOp hi).symm, rfl, rfl⟩

/-- The acceptance of a wait, and polls that all read busy. -/
theorem runs_busyPolls {polls : List Poll} (hi : Command.ofOp i.op = some .waitWriteComplete) (hs : s.st = .idle)
    (hb : ∀ p ∈ polls, p.status.getLsbD 0 = true) (x : Inputs) :
    ∃ t, Runs i ([x] ++ polls.flatMap Poll.busy)
        ([.cmd i.op i.addr i.len i.data] ++ polls.flatMap Poll.busyEvents) s t ∧ AboutToPoll t := by
  obtain ⟨u, hu, htrace, hpoll⟩ := exec_acceptWait (s := { s with inp := x }) hi hs
  obtain ⟨t, ht, hend⟩ := runs_waitPath (g := .assert) hi (waitPath_busyPolls hb) hpoll
  exact ⟨t, .cons hu htrace ht, hend⟩

/-- After a status byte with bit 0 clear the wait responds OK (R192). -/
theorem runs_pollReady {b : Byte} (hi : Command.ofOp i.op = some .waitWriteComplete) (hs : Polled b s)
    (hb : statusRdy b = false) (x y : Inputs) :
    ∃ t, Runs i [x, y.takeRsp] [.csOff, .rsp 0] s t ∧ t.st = .idle ∧ t.cs = false := by
  obtain ⟨hst, -, hf, rfl⟩ := hs
  have hend := exec_deassert_ready (s := { s with inp := x }) hi hst hf hb
  exact ⟨_, .cons hend rfl (.cons (exec_resp_ready rfl rfl) rfl ⟨rfl, (List.append_nil _).symm⟩), rfl, rfl⟩

/-- The last poll, and the response. -/
theorem runs_lastPoll {p : Poll} (hi : Command.ofOp i.op = some .waitWriteComplete) (hs : AboutToPoll s)
    (hb : p.status.getLsbD 0 = false) :
    ∃ t, Runs i (p.frame ++ [p.atEnd.takeRsp]) (p.events ++ [.rsp 0]) s t ∧ t.st = .idle ∧ t.cs = false := by
  obtain ⟨u, hu, hpolled⟩ := runs_waitPath (g := .assert) hi (waitPath_exchanges p) hs
  obtain ⟨t, ht, hend⟩ := runs_pollReady hi hpolled hb p.atDeassert p.atEnd
  exact ⟨t, hu.append ht, hend⟩

end

/-- Settles O33: every busy poll leads to the next one. -/
theorem waitHasNoCap : Obligations.WaitHasNoCap := by
  intro a n d x polls s hs hb
  obtain ⟨t, ht, hpoll⟩ := runs_busyPolls (i := .waitWriteComplete a n d) rfl hs hb x
  obtain ⟨hready, hvalid⟩ := WaitAt.outputs (g := .assert) hpoll
  obtain ⟨hst, hop, -, -⟩ := hpoll
  exact ⟨t, ht.run, hst, hop, hready, hvalid, ht.trace.trans (List.append_assoc _ _ _).symm⟩

/-- Settles O32: the busy polls, and the last one with its response. -/
theorem waitPollsUntilReady : Obligations.WaitPollsUntilReady := by
  intro a n d x polls last s hs hb hlast
  obtain ⟨u, hu, hpoll⟩ := runs_busyPolls (i := .waitWriteComplete a n d) rfl hs hb x
  obtain ⟨t, ht, hst, hcs⟩ := runs_lastPoll (i := .waitWriteComplete a n d) rfl hpoll hlast
  have hall := hu.append ht
  refine ⟨t, by simpa only [List.append_assoc] using hall.run, hst, hcs, ?_⟩
  rw [hall.trace]
  simp only [List.append_assoc]
  rfl

/-! ### The endless wait (R194, R214) -/

/-- The ports `R` take a wait that is about to poll to one that is about to poll again, with the events `L` and with
no reset. -/
structure BusyRound (R : List Inputs) (L : List Event) : Prop where
  path : WaitPath .assert R L .assert
  noReset : ∀ x ∈ R, x.rst = false
  nonempty : R ≠ []

/-- The wait stands at `g` inside a round of its ports that repeats for ever, with the ports `xs` and the events `l`
of the round to come. -/
structure RoundLeft (R : List Inputs) (g : WaitStage) (xs : List Inputs) (l : List Event) (s : State) : Prop where
  stage : WaitAt g s
  ports : s.inp :: s.script = xs
  path : WaitPath g xs l .assert
  noReset : ∀ x ∈ xs, x.rst = false
  later : s.later = .repeats R

section
variable {R : List Inputs} {L : List Event} {g : WaitStage} {x : Inputs} {xs : List Inputs} {l : List Event} {s : State}

/-- A step of the machine at a stage of a wait is the step of the wait, and the next ports. -/
theorem step_waitStep {e : Event} {g₁ : WaitStage} (h : WaitStep g s.inp e g₁) (hs : WaitAt g s)
    (hr : s.inp.rst = false) :
    ∃ u, step s = .next (nextInputs u) ∧ u.trace = s.trace ++ [e] ∧ WaitAt g₁ u ∧ u.script = s.script ∧
      u.later = s.later := by
  have hdue : fetchInstr (deviceStep s) = some (decodePorts s.op s.addr s.len s.cdata) :=
    fetchInstr_latched (s := deviceStep s) hs.unanswered.1
  have hi : Command.ofOp (decodePorts s.op s.addr s.len s.cdata).op = some .waitWriteComplete := by
    rw [decodePorts_op, hs.op]
    rfl
  obtain ⟨u, hu, htrace, hat⟩ := exec_waitStep (s := deviceStep s) hi h (waitAt_deviceStep.2 hs)
  obtain ⟨-, hscript, hlater, -⟩ := exec_ports hu
  exact ⟨u, step_of_exec hr hdue hu, htrace, hat, hscript, hlater⟩

/-- A step inside a round leaves the rest of the round, and the last step of a round a whole one. -/
theorem step_roundLeft (hR : BusyRound R L) (h : RoundLeft R g (x :: xs) l s) :
    ∃ t e l', step s = .next t ∧ l = e :: l' ∧ t.trace = s.trace ++ [e] ∧
      if xs = [] then l' = [] ∧ RoundLeft R .assert R L t else ∃ g', RoundLeft R g' xs l' t := by
  obtain ⟨hat, hports, hpath, hrst, hlater⟩ := h
  obtain ⟨rfl, rfl⟩ := List.cons.inj hports
  obtain ⟨hr, hrst⟩ := List.forall_mem_cons.1 hrst
  cases hpath with
  | @cons _ g₁ _ _ _ e l' hstep hrest =>
    obtain ⟨u, hu, htrace, hat₁, hscript, hlater₁⟩ := step_waitStep hstep hat hr
    have hnext := nextInputs_repeats (hlater₁.trans hlater) hR.nonempty
    rw [hscript] at hnext
    refine ⟨_, e, l', hu, rfl, htrace, ?_⟩
    split
    next hend =>
      rw [if_pos hend] at hnext
      rw [hend] at hrest
      cases hrest
      exact ⟨rfl, waitAt_nextInputs.2 hat₁, hnext, hR.path, hR.noReset, hlater₁.trans hlater⟩
    next hmore =>
      rw [if_neg hmore] at hnext
      exact ⟨g₁, waitAt_nextInputs.2 hat₁, hnext, hrest, hrst, hlater₁.trans hlater⟩

/-- From inside a round, any number of steps answers a state inside a round: there is no cap (R194). -/
theorem run_roundLeft (hR : BusyRound R L) (n : Nat) (h : RoundLeft R g xs l s) :
    ∃ t g' xs' l', core.run n s = .next t ∧ RoundLeft R g' xs' l' t := by
  induction n generalizing g xs l s with
  | zero => exact ⟨s, g, xs, l, rfl, h⟩
  | succ n ih =>
    cases xs with
    | nil => exact absurd h.ports (List.cons_ne_nil _ _)
    | cons x xs =>
      obtain ⟨u, e, l', hu, -, -, hrest⟩ := step_roundLeft hR h
      obtain ⟨g₁, xs₁, l₁, h₁⟩ : ∃ g₁ xs₁ l₁, RoundLeft R g₁ xs₁ l₁ u := by
        split at hrest
        · obtain ⟨-, h₁⟩ := hrest
          exact ⟨_, _, _, h₁⟩
        · obtain ⟨g₁, h₁⟩ := hrest
          exact ⟨g₁, _, _, h₁⟩
      obtain ⟨t, g', xs', l', ht, h'⟩ := ih h₁
      exact ⟨t, g', xs', l', (run_succ_eq_next (M := core)).2 ⟨u, hu, ht⟩, h'⟩

/-- The rest of a round, to the start of the next one. -/
theorem plays_roundLeft (hR : BusyRound R L) (h : RoundLeft R g xs l s) :
    ∃ t, Plays xs l s t ∧ RoundLeft R .assert R L t := by
  induction xs generalizing g l s with
  | nil => exact absurd h.ports (List.cons_ne_nil _ _)
  | cons x xs ih =>
    obtain ⟨u, e, l', hu, rfl, htrace, hrest⟩ := step_roundLeft hR h
    split at hrest
    next hend =>
      obtain ⟨rfl, hround⟩ := hrest
      subst hend
      exact ⟨u, .cons hu htrace ⟨rfl, (List.append_nil _).symm⟩, hround⟩
    next =>
      obtain ⟨g', hleft⟩ := hrest
      obtain ⟨t, ht, hround⟩ := ih hleft
      exact ⟨t, .cons hu htrace ht, hround⟩

/-- Any number of rounds. -/
theorem plays_rounds (hR : BusyRound R L) (j : Nat) (h : RoundLeft R .assert R L s) :
    ∃ t, Plays (List.replicate j R).flatten (List.replicate j L).flatten s t ∧ RoundLeft R .assert R L t := by
  induction j generalizing s with
  | zero => exact ⟨s, ⟨rfl, (List.append_nil _).symm⟩, h⟩
  | succ j ih =>
    obtain ⟨u, hu, hround⟩ := plays_roundLeft hR h
    obtain ⟨t, ht, hend⟩ := ih hround
    exact ⟨t, List.flatten_cons ▸ List.flatten_cons ▸ hu.append ht, hend⟩

/-- The step that accepts a wait is followed by a round. -/
theorem step_acceptWait (hR : BusyRound R L) (hs : s.st = .idle) (hr : s.inp.rst = false)
    (hv : s.inp.cmdValid = true) (hop : s.inp.cmdOp = 0x9) (hscript : s.script = R) (hlater : s.later = .repeats R) :
    ∃ t, step s = .next t ∧
      t.trace = s.trace ++ [.cmd 0x9 s.inp.cmdAddr s.inp.cmdLen s.inp.cmdData] ∧ RoundLeft R .assert R L t := by
  have hdue := fetchInstr_idle (s := deviceStep s) hs hv
  have hi : Command.ofOp (decodePorts s.inp.cmdOp s.inp.cmdAddr s.inp.cmdLen s.inp.cmdData).op =
      some .waitWriteComplete := by
    rw [decodePorts_op, hop]
    rfl
  obtain ⟨u, hu, htrace, hpoll⟩ := exec_acceptWait (s := deviceStep s) hi hs
  obtain ⟨-, hscript₁, hlater₁, -⟩ := exec_ports hu
  have hports := nextInputs_repeats (hlater₁.trans hlater) hR.nonempty
  rw [hscript₁, deviceStep_script, hscript, ite_self] at hports
  refine ⟨nextInputs u, step_of_exec hr hdue hu, ?_, hpoll, hports, hR.path, hR.noReset, hlater₁.trans hlater⟩
  rw [nextInputs_trace, htrace, decodePorts_op, decodePorts_addr, decodePorts_len, decodePorts_data, hop,
    deviceStep_trace]

end

/-- Polls that all read busy, with no reset, are a round. -/
theorem busyRound_polls {polls : List Poll} (hne : polls ≠ [])
    (h : ∀ p ∈ polls, p.status.getLsbD 0 = true ∧ ∀ x ∈ p.busy, x.rst = false) :
    BusyRound (polls.flatMap Poll.busy) (polls.flatMap Poll.busyEvents) where
  path := waitPath_busyPolls fun p hp => (h p hp).1
  noReset x hx := by
    obtain ⟨p, hp, hx⟩ := List.mem_flatMap.1 hx
    exact (h p hp).2 x hx
  nonempty hnil := by
    obtain ⟨p, ps, rfl⟩ := List.exists_cons_of_ne_nil hne
    simp [Poll.busy, Poll.frame] at hnil

/-- Settles O34: after the acceptance every step stays inside a round of the polls, and whole rounds add their
events. -/
theorem waitPollsForever : Obligations.WaitPollsForever := by
  intro polls s hs hr hv hop hne hb hscript hlater
  have hR := busyRound_polls hne hb
  obtain ⟨u, hu, htrace, hround⟩ := step_acceptWait hR hs hr hv hop hscript hlater
  refine ⟨fun n => ?_, fun j => ?_⟩
  · obtain ⟨t, g, xs, l, ht, hleft⟩ := run_roundLeft hR n hround
    exact ⟨t, (run_succ_eq_next (M := core)).2 ⟨u, hu, ht⟩, hleft.stage.outputs⟩
  · obtain ⟨t, ht, hend⟩ := plays_rounds hR j hround
    have hrun := ht.run
    rw [List.length_flatten, List.map_replicate, List.sum_replicate, smul_eq_mul] at hrun
    refine ⟨t, ?_, hend.stage.1, ?_⟩
    · rw [Nat.add_comm]
      exact (run_succ_eq_next (M := core)).2 ⟨u, hu, hrun⟩
    · rw [ht.trace, htrace]
      rfl

end Sys2Proof.Machine
end

section
/-! SUPPORT. An illegal op code from its acceptance to its response (60_exceptions.md R213). -/

namespace Sys2Proof.Machine

/-- An illegal op code is accepted in one step and answered in the next; neither step touches chip-select or the
device (R121, R129, R213). -/
theorem execRun_illegal {i : Instr} {s : State} (hc : Command.ofOp i.op = none) (hs : s.st = .idle)
    (x₀ x₁ : Inputs) :
    ∃ t, execRun i [x₀, x₁.takeRsp] s = .next t ∧ t.st = .idle ∧ t.cs = s.cs ∧ t.dev = s.dev ∧
      t.trace = s.trace ++ [.cmd i.op i.addr i.len i.data, .rsp codeIllegalOp] := by
  have haccept := exec_idle_illegal (s := { s with inp := x₀ }) hs hc
  rw [execRun_cons haccept, execRun_cons (exec_resp_ready rfl rfl)]
  exact ⟨_, rfl, rfl, rfl, rfl, List.append_assoc s.trace [_] [_]⟩

/-- Settles O35: none of the seven op codes names a command (R95), and an op code that names none is answered with
ILLEGAL_OP. -/
theorem illegalOpsAnswered : Obligations.IllegalOpsAnswered := by
  intro a n d x₀ x₁ s hs i hi
  simp only [List.mem_cons, List.not_mem_nil, or_false] at hi
  obtain rfl | rfl | rfl | rfl | rfl | rfl | rfl := hi <;> exact execRun_illegal rfl hs x₀ x₁

end Sys2Proof.Machine
end

section
/-! SUPPORT. Reset as a step (70_reset_and_hazards.md R240 to R242): it is the same step whatever command is due. -/

namespace Sys2Proof.Machine

/-- A device without an open frame is not touched by reset (R242). -/
theorem resetStep_dev_of_closed {s : State} (h : s.cs = false) : (resetStep s).dev = s.dev := by
  rw [resetStep_dev, h, if_neg Bool.false_ne_true]

/-- Settles O23: the step under `rst` is the reset step after the device's own, and neither the device nor the ports
that follow change the controller. -/
theorem resetTakesPrecedence : Obligations.ResetTakesPrecedence := by
  intro s hr
  refine ⟨nextInputs (resetStep (deviceStep s)), step_reset hr, ?idle, ?inactive, ?event, ?ready, fun hclosed => ?device⟩
  case idle => rw [nextInputs_st, resetStep_st]
  case inactive => rw [nextInputs_cs, resetStep_cs]
  case event => rw [nextInputs_trace, resetStep_trace, deviceStep_trace]
  case ready => simp [outputs]
  case device => rw [nextInputs_dev, resetStep_dev_of_closed ((deviceStep_cs s).trans hclosed)]

end Sys2Proof.Machine
end
